-- ==== Sys2Proof/Word.lean ====
section
/-! DEFINITION. The words and index types of the part, and the plainest helpers over them. -/

namespace Sys2Proof

/-- A byte of a message, a transfer or a link exchange (R184, R134). -/
abbrev Byte := BitVec 8

/-- A 24-bit word taken from an input port: a sample, or a transport word (R1). -/
abbrev TWord := BitVec 24

/-- A word as a serial, biphase or converter input brings it: how many bits it has, and those bits as an unsigned value, the first to
arrive most significant (R1). -/
structure InputWord where
  length : Nat
  value : Nat
  deriving DecidableEq, Repr

/-- The 48-bit identity of an amplifier module (R119). -/
abbrev Identity := BitVec 48

/-- Input port P0..P10. -/
abbrev PortId := Fin 11

/-- Source id 0..15. -/
abbrev SourceId := Fin 16

/-- Zone Z0..Z2. -/
abbrev ZoneId := Fin 3

/-- Stream decoder D0, D1. -/
abbrev DecoderId := Fin 2

/-- Output slot S0..S15. -/
abbrev SlotId := Fin 16

/-- Entry 0..5 of the module table. -/
abbrev EntryId := Fin 6

/-- Role code 0..11 of the roles table (00_scope.md). -/
abbrev Role := Fin 12

/-- Rate code 0..6 of the sample rate table (00_scope.md). -/
abbrev RateCode := Fin 7

namespace Role
abbrev FL : Role := 0
abbrev FR : Role := 1
abbrev C : Role := 2
abbrev LFE : Role := 3
abbrev SL : Role := 4
abbrev SR : Role := 5
abbrev BL : Role := 6
abbrev BR : Role := 7
abbrev TFL : Role := 8
abbrev TFR : Role := 9
abbrev TBL : Role := 10
abbrev TBR : Role := 11
end Role

/-- The tuner's audio port. -/
abbrev tunerPort : PortId := 10

def allZones : List ZoneId := [0, 1, 2]
def allDecoders : List DecoderId := [0, 1]
def allPorts : List PortId := [0, 1, 2, 3, 4, 5, 6, 7, 8, 9, 10]
def allSources : List SourceId := [0, 1, 2, 3, 4, 5, 6, 7, 8, 9, 10, 11, 12, 13, 14, 15]
def allSlots : List SlotId := [0, 1, 2, 3, 4, 5, 6, 7, 8, 9, 10, 11, 12, 13, 14, 15]
def allEntries : List EntryId := [0, 1, 2, 3, 4, 5]
def allRates : List RateCode := [0, 1, 2, 3, 4, 5, 6]
def allRoles : List Role := [0, 1, 2, 3, 4, 5, 6, 7, 8, 9, 10, 11]

/-- `n` as an index below `k`, when it is one. -/
def toFin? (k n : Nat) : Option (Fin k) :=
  if h : n < k then some ⟨n, h⟩ else none

/-- A value set to the nearest end of the range `lo..hi` ("clamped", 00_scope.md). -/
def clamp (lo hi x : Int) : Int := if x < lo then lo else if hi < x then hi else x

/-- `x` put into a strictly rising list, at most once. -/
def insertAsc (x : Nat) : List Nat → List Nat
  | [] => [x]
  | y :: ys => if x < y then x :: y :: ys else if x = y then y :: ys else y :: insertAsc x ys

/-- A counter that holds at `top` once it reaches it. -/
def countUp (top n : Nat) : Nat := if n < top then n + 1 else top

end Sys2Proof
end

