-- ==== Sys2Proof/Syntax.lean ====
section
/-! DEFINITION. The commands: one constructor for each row of spec/opcode_table.json, with what the outside
brings to it. The rows of host commands find their fields in the frame at the head of the command queue (R187). -/

namespace Sys2Proof

/-- What READ_QUALITY returns (R153). -/
structure Reading where
  strength : Byte
  multipath : Byte
  stereo : Bool
  alignment : Byte
  deriving DecidableEq, Repr

/-- How an amplifier link transaction ended on the wire (R128): the module acknowledged everything, with the bytes
a read brought, or failed to acknowledge. (A stall is the row LINK_STALL.) -/
inductive LinkResult where
  | acknowledged (reply : List Byte)
  | notAcknowledged
  deriving DecidableEq, Repr

/-- How a tuner link transaction ended (R153). The reading is that of a READ_QUALITY and is not looked at for
another transaction. -/
inductive TunerResult where
  | acknowledged (reading : Reading)
  | notAcknowledged
  deriving DecidableEq, Repr

/-- The rows of spec/opcode_table.json. -/
inductive Instr where
  -- control port and resets (11)
  | hardReset
  | initialisationEnd
  | statusTransfer
  /-- The bytes the host sends after the first byte 0x01. -/
  | writeTransfer (bytes : List Byte)
  /-- How many bytes the host clocks out after the status byte. -/
  | readTransfer (clocked : Nat)
  /-- The host's first byte, and how many bytes it clocks after it. -/
  | otherTransfer (first : Byte) (clocked : Nat)
  | unknownCommandKind
  | sysReset
  | noteMask
  -- sources and ports (1)
  | srcDefine
  | srcEnable
  | srcQuery
  | clockSeen (p : PortId)
  /-- The measured rate in mHz. -/
  | rateRecognitionChange (p : PortId) (measured : Nat)
  | stabilityTimerExpiry (p : PortId)
  | clockLost (p : PortId)
  /-- The measured rate in mHz. -/
  | rateChange (p : PortId) (measured : Nat)
  | wordTaken (p : PortId) (w : InputWord)
  | wordCountLimit (p : PortId) (w : InputWord)
  | channelStatusBlock (p : PortId) (nonAudio : Bool)
  -- zones (2)
  | zonePower
  | zoneSource
  | zoneVolume
  | zoneMaxvol
  | zoneMute
  | zonePush
  | zonePop
  | zoneAnnounce
  | zoneLipsync
  | zoneDrc
  | zoneUpmix
  | zoneQuery
  | zoneFlagsClear
  | holdTimerExpiry (z : ZoneId)
  -- decoders (3) and rendering (4, 5)
  | decQuery
  | spanBoundary (d : DecoderId)
  /-- The port's words of this sample period, in channel order; used by a zone playing PCM. -/
  | zoneSamplePeriod (z : ZoneId) (words : List InputWord)
  | blockBoundary (z : ZoneId)
  | rampOutEnd (z : ZoneId)
  | layoutSet
  | xoverLoad
  | matrixLoad
  | matrixMode
  -- slots (6)
  | slotAssign
  | slotRelease
  | slotDistance
  | slotTrim
  | slotLimit
  | slotQuery
  -- amplifier link (7)
  | linkStart
  | linkEnum
  | linkReset
  | linkQuery
  | transactionComplete (r : LinkResult)
  | absentReleaseAssign
  /-- Whether the line is free after the first recovery. -/
  | linkStall (freed : Bool)
  | stallRecoveryRepeat (freed : Bool)
  | pollTimerExpiry (k : EntryId)
  /-- The three-bit addresses of the modules that hold the line low; none of them: the line is high. -/
  | requestWindow (addresses : List (BitVec 3))
  /-- The request kind byte and the three payload bytes. -/
  | faultRequest (kind fault mask value : Byte)
  | joinRequest
  | identityResponse (identity : Identity)
  | assignComplete (acknowledged : Bool)
  /-- The byte read, or none for a negative acknowledge. -/
  | roundReadDesc (reply : Option Byte)
  -- protection (8)
  | protReset
  | protQuery
  | holdoffExpiry (k : EntryId) (ch : Fin 8)
  -- tuner (9)
  /-- Whether the front end acknowledges the probe, its repeat included (R154). -/
  | tunPower (probe : Bool)
  | tunRegion
  | tunThreshold
  | tunTune
  | tunSeek
  | tunScan
  | tunAbort
  | tunQuery
  | stlistRead
  | stlistClear
  | tunerTransactionComplete (r : TunerResult)
  | settleTimeExpiry
  | alignmentSearchExpiry
  | qualityWaitExpiry
  /-- What the monitor read returned, or none when it failed twice (R153). -/
  | monitorRead (reading : Option Reading)
  /-- The seven bytes of the group. -/
  | alternateIdentGroup (group : List Byte)
  | alternateIdentTimeout
  -- station memory and station data (10)
  | stmemLockmode
  | stmemPreset
  | stmemUnlock
  | stmemFlush
  | stmemQuery
  /-- The seven bytes of the group. -/
  | stationDataGroup (group : List Byte)
  | announcementTimeout
  -- groups (11)
  | groupTimerExpiry
  deriving DecidableEq, Repr

end Sys2Proof
end

