-- ==== Sys2Proof/Decode.lean ====
section
/-! DEFINITION. The table's words. No row of spec/opcode_table.json gives bits, so no word spells a command.
The frames of the control port are read in Machine/Operands.lean. -/

namespace Sys2Proof

/-- The command a word of the opcode table spells. The table gives none of its 92 rows any bits, so there is none. -/
def decodeTableWord (_nbits _w : Nat) : Option Instr := none

end Sys2Proof
end

