-- ==== Sys2Proof/Config.lean ====
section
/-! DEFINITION. The fixed quantities of the part, each with the rule that states it, and the free values
(constants without a body: nothing is known of them). -/

namespace Sys2Proof.Config

/-- The revision number that START carries (R195). The spec states no value: a free value (log 8). -/
opaque revision : Byte

/-- A byte the part drives onto the control port where no rule gives one (log 8): a free value,
a fresh one for each index. -/
opaque unstatedByte : Nat → Byte

/-- Places of the command queue (R185). -/
def commandPlaces : Nat := 8
/-- Places of the outgoing queue, messages and reservations together (R188). -/
def outgoingPlaces : Nat := 32
/-- Payload bytes of a full segment: 250 less kind, tag and flags (R184). -/
def segmentPayload : Nat := 247
/-- Part number in START (R195). -/
def partNumber : Nat := 8400
/-- Sample words of the delay memory (R115). -/
def delayWords : Nat := 262144
/-- Sample words of a slot's speaker region (R115). -/
def regionWords : Nat := 5600
/-- The first word of the lip-sync pool: behind the sixteen speaker regions (R115). -/
def poolBase : Nat := 89600
/-- Sample words of the lip-sync pool (R115). -/
def poolWords : Nat := 172544
/-- Places of the ordinary transaction queue (R126). -/
def ordinaryPlaces : Nat := 16
/-- Words after which the sync watcher decides a port's content (R9). -/
def sightingLimit : Nat := 4096
/-- The payload of the sync word (R8); its end mark is 0, so this is the whole word. -/
def syncWord : TWord := 0x2B6E51#24
/-- Sample positions of a frame and of a span (R54). -/
def spanLength : Nat := 256
/-- Sample periods of a processing block (R63). -/
def blockLength : Nat := 32
/-- Entries the station list holds at most (R162). -/
def stationListPlaces : Nat := 48
/-- Alternates the alternate list holds at most (R179). -/
def alternatePlaces : Nat := 8
/-- Entries an interruption stack holds at most (section 2.6). -/
def stackPlaces : Nat := 4

/-! Times in ms. -/

/-- Stable, recognised rate before lock (R3). -/
def stabilityMs : Nat := 20
/-- Hold of a zone whose source has gone (R22). -/
def holdMs : Nat := 500
/-- Poll period of a present module (R131). -/
def pollMs : Nat := 100
/-- Period of a repeated line recovery (R129). -/
def recoveryMs : Nat := 2
/-- Hold-off of a recovering channel (R145). -/
def holdOffMs : Nat := 3000
/-- Window of the overcurrent history (R143). -/
def overcurrentMs : Nat := 60000
/-- Alignment search of the front end (R153). -/
def searchMs : Nat := 20
/-- Wait before a quality measurement (R156). -/
def qualityMs : Nat := 5
/-- Period of monitor reads (R156). -/
def monitorMs : Nat := 100
/-- Weak signal before a check begins (R166). -/
def lowSignalMs : Nat := 5000
/-- Wait for an IDENT group on an alternate (R166). -/
def identMs : Nat := 40
/-- Longest announcement (R180). -/
def announcementMs : Nat := 180000
/-- Longest open group (R194). -/
def groupMs : Nat := 250

/-- The mantissa table of 4.1. -/
def mantissa : List Nat :=
  [16384, 15464, 14596, 13777, 13004, 12274, 11585, 10935, 10321, 9742, 9195, 8679]

/-- The rate in Hz of a rate code (00_scope.md, Sample rates). -/
def rateHz : RateCode → Nat
  | 0 => 32000
  | 1 => 44100
  | 2 => 48000
  | 3 => 88200
  | 4 => 96000
  | 5 => 176400
  | 6 => 192000

end Sys2Proof.Config
end

