-- ==== Sys2Proof/Machine/State.lean ====
section
/-! DEFINITION. The state of the part, block by block, as plain data; the state after reset; the reasons a step can
stop. Each field's docstring names the rule that gives it. INVENTORY.md lists them with their reset values. -/

namespace Sys2Proof.Machine

/-! ## Reasons to stop -/

/-- Faults. Every command of the table has an effect in the spec, so no meaning of this model raises one. -/
inductive Fault where
  /-- Raised by no meaning; it stands here because the interface asks for a type of faults. Safe. -/
  | noEffectGiven
  deriving DecidableEq, Repr

/-- Refusals. -/
inductive Refusal where
  /-- Raised by an arm of `exec` for a command that has no meaning yet; no arm of this model does. Safe. -/
  | notModelled (mnemonic : String)
  deriving DecidableEq, Repr

/-! ## Input receivers (01) -/

inductive PortState where
  | off | noSignal | locking | locked
  deriving DecidableEq, Repr

inductive Content where
  | undetermined | pcm | packed | unsupported
  deriving DecidableEq, Repr

/-- The phase of the sync watcher (R8). The last three are FOLLOW: the format word is next; so many end marks are
still expected; the next word stands at the expected position. -/
inductive WatchPhase where
  | seek
  | format
  | marks (left : Nat)
  | due
  deriving DecidableEq, Repr

/-- The record of a port (1.2). -/
structure Port where
  state : PortState
  rate : Option RateCode
  content : Content
  nonAudio : Bool
  /-- The listed rate being timed and when its timing began, while the stability timer runs (R3). -/
  stability : Option (RateCode × Nat)
  phase : WatchPhase
  /-- Words since the last sighting, 0..4,096 (R9). -/
  count : Nat
  deriving DecidableEq, Repr

/-! ## Source table (01) -/

/-- An entry of the source table (1.5). The channel count is the length of the channel map. -/
structure Source where
  enabled : Bool
  port : PortId
  width : Nat
  map : List Role
  trim : Int
  offset : Nat
  deriving DecidableEq, Repr

/-! ## Zone controller (02) and render engine (04, 05) -/

inductive ZoneState where
  | standby | idle | acquiring | running | held
  deriving DecidableEq, Repr

inductive Reason where
  | noSource | noSignal | undetermined | unsupported | waitDecoder | decoderSync
  deriving DecidableEq, Repr

inductive Policy where
  | ignore | follow
  deriving DecidableEq, Repr

inductive StackCause where
  | host | announcement
  deriving DecidableEq, Repr

/-- An entry of an interruption stack (2.6). -/
structure StackEntry where
  source : Option SourceId
  volume : Int
  mute : Bool
  cause : StackCause
  deriving DecidableEq, Repr

inductive MatrixMode where
  | default | custom
  deriving DecidableEq, Repr

inductive Size where
  | absent | small | large
  deriving DecidableEq, Repr

/-- A layout: the size of each role, in code order (R85). A present LFE is held as `large`. -/
abbrev Layout := Vector Size 12

/-- A crossover set: five Q2.30 coefficients (R73, R96). -/
structure XoverSet where
  b0 : Int
  b1 : Int
  b2 : Int
  a1 : Int
  a2 : Int
  deriving DecidableEq, Repr

/-- One row of a matrix: an output role and a coefficient for each program channel. -/
structure MatrixRow where
  role : Role
  coefs : List Int
  deriving DecidableEq, Repr

/-- A matrix in force, and whether it is the custom one (R88, R101). -/
structure Matrix where
  rows : List MatrixRow
  custom : Bool
  deriving DecidableEq, Repr

/-- A stored custom matrix (R97). -/
structure CustomMatrix where
  map : List Role
  rows : List MatrixRow
  deriving DecidableEq, Repr

/-- What a MATRIX.LOAD writes (R99). -/
structure MatrixWrite where
  replaces : Bool
  map : List Role
  rows : List MatrixRow
  deriving DecidableEq, Repr

/-- The zone fields of a pending record: a staged value or nothing for each render field (R191). -/
structure ZoneStaged where
  volume : Option Int
  mute : Option Bool
  lipsync : Option Nat
  dynamicGain : Option Bool
  upmix : Option Bool
  layout : Option Layout
  high : Option XoverSet
  low : Option XoverSet
  loads : List MatrixWrite
  mode : Option MatrixMode
  deriving DecidableEq, Repr

/-- The parameters in force for a block (R63). -/
structure Active where
  volume : Int
  dynamicGain : Bool
  sourceTrim : Int
  layout : Layout
  high : XoverSet
  low : XoverSet
  deriving DecidableEq, Repr

/-- A zone: the record of 2.1, and what the render engine holds for the zone. -/
structure Zone where
  state : ZoneState
  source : Option SourceId
  reason : Option Reason
  rate : Option RateCode
  map : Option (List Role)
  volume : Int
  maxVolume : Int
  mute : Bool
  lipsync : Nat
  policy : Policy
  annSource : Option SourceId
  annVolume : Int
  dynamicGain : Bool
  upmix : Bool
  matrixMode : MatrixMode
  decoder : Option DecoderId
  delayClamped : Bool
  annMissed : Bool
  /-- Newest on top: the head of the list. -/
  stack : List StackEntry
  allocation : Nat
  /-- When the hold timer started, while it runs (R22). -/
  hold : Option Nat
  /-- Render engine: the layout (R85), the two crossover sets (R96), the custom store (R97). -/
  layout : Layout
  high : XoverSet
  low : XoverSet
  store : Option CustomMatrix
  matrix : Option Matrix
  stale : Bool
  /-- A derivation, a lip-sync recomputation, a new set awaits the zone's next block boundary (R95, R67, R96). -/
  deriveDue : Bool
  lipsyncDue : Bool
  highDue : Bool
  lowDue : Bool
  staged : ZoneStaged
  active : Active
  /-- D_ls, and what entered the program delay lines since they were filled with zeros, newest first, at most D_ls (R68). -/
  delay : Nat
  lines : List (List Int)
  /-- The zone runs its stages after leaving RUNNING (R79). -/
  rampOut : Bool
  /-- Sample periods of the present block already run, or none before the first block (R63). -/
  blockPos : Option Nat
  /-- The zone's sample position in its decoder's span (R63). -/
  spanPos : Nat
  deriving DecidableEq, Repr

/-! ## Stream decoders (03) -/

inductive DecoderState where
  | idle | search | confirm | locked | hold
  deriving DecidableEq, Repr

inductive RejectCause where
  | none | format | framing | check
  deriving DecidableEq, Repr

/-- A header: rate code and map; the channel count is the map's length. -/
structure Header where
  rate : RateCode
  map : List Role
  deriving DecidableEq, Repr

/-- A dynamic gain point (R46). -/
structure GainPoint where
  position : Nat
  gain : Int
  deriving DecidableEq, Repr

/-- A verified frame (R44). -/
structure Frame where
  header : Header
  sequence : Nat
  level : Int
  centreFold : Int
  surroundFold : Int
  points : List GainPoint
  entryGain : Int
  exitGain : Int
  /-- One block of 256 samples for each channel, in map order. -/
  samples : List (List Int)
  deriving DecidableEq, Repr

/-- What a verified frame leaves in the carry chain: sequence number, metadata, exit gain (R45, R47, R48, R50). -/
structure Carry where
  sequence : Nat
  level : Int
  centreFold : Int
  surroundFold : Int
  points : List GainPoint
  exitGain : Int
  deriving DecidableEq, Repr

/-- The metadata of the playing frame, and the gain in force at the end of the last span played (R50). -/
structure Metadata where
  level : Int
  centreFold : Int
  surroundFold : Int
  points : List GainPoint
  endGain : Int
  deriving DecidableEq, Repr

/-- Where the next word of a frame in assembly stands (R43). -/
inductive Place where
  | format
  | map (index : Nat)
  | metadata (index : Nat)
  | channel (block index : Nat)
  | check
  deriving DecidableEq, Repr

/-- A frame in assembly, with its running sum and position (R42 to R44). Blocks and samples are held newest first;
`roles` is what the map positions read so far hold. -/
structure Assembly where
  place : Place
  sum : BitVec 23
  rate : RateCode
  channels : Nat
  hasMetadata : Bool
  sequence : Nat
  roles : List Nat
  level : Option Int
  centreFold : Option Int
  surroundFold : Option Int
  points : List GainPoint
  ignored : Nat
  blocks : List (List Int)
  samples : List Int
  deriving DecidableEq, Repr

/-- How the decoder takes its next word (R41): comparing it with the sync word; as a candidate format word after a
sighting; as the word at the expected position; as a word of the frame in assembly. -/
inductive Mode where
  | scan
  | candidate
  | expect
  | assemble (a : Assembly)
  deriving DecidableEq, Repr

structure DecoderCounters where
  good : Nat
  rejected : Nat
  syncLosses : Nat
  ignored : Nat
  jumps : Nat
  slips : Nat
  deriving DecidableEq, Repr

/-- The record of a decoder (R50). Its users are the zones whose bound-decoder field names it. -/
structure Decoder where
  state : DecoderState
  port : Option PortId
  mode : Mode
  confirm : Option Frame
  ready : Option Frame
  playing : Option Frame
  /-- The play clock runs. -/
  clock : Bool
  /-- The furthest sample position of the present span that a user has taken. -/
  playPos : Nat
  header : Option Header
  metadata : Option Metadata
  chain : Option Carry
  bad : Nat
  lastCause : RejectCause
  counters : DecoderCounters
  deriving DecidableEq, Repr

/-! ## Slot stage (06) -/

inductive SlotState where
  | unassigned | silent | active | limited | shut
  deriving DecidableEq, Repr

/-- A destination: a channel 1..8 of a module, or a line output (R102). -/
inductive Destination where
  | amp (identity : Identity) (channel : Nat)
  | line (output : Fin 6)
  deriving DecidableEq, Repr

/-- The zone, role and destination of an assigned slot, written and emptied together (R102). -/
structure Assignment where
  zone : ZoneId
  role : Role
  dest : Destination
  deriving DecidableEq, Repr

/-- Which crossover set a slot's section uses (R73). -/
inductive XoverUse where
  | bypass | high | low
  deriving DecidableEq, Repr

/-- The staged values of a slot, standing in its zone's pending record (R191). -/
structure SlotStaged where
  distance : Option Nat
  trim : Option Int
  limit : Option Nat
  deriving DecidableEq, Repr

/-- The record of a slot (R102). -/
structure Slot where
  assigned : Option Assignment
  state : SlotState
  distance : Nat
  delay : Nat
  trim : Int
  limit : Nat
  reduction : Nat
  u1 : Int
  u2 : Int
  y1 : Int
  y2 : Int
  /-- What entered the speaker delay line since it was filled with zeros, newest first, at most D_spk (R76). -/
  line : List Int
  g : Nat
  target : Nat
  overflow : Bool
  limited : Bool
  clips : Nat
  staged : SlotStaged
  /-- Trim, limit and set in force for the block (R63, R73). -/
  activeTrim : Int
  activeLimit : Nat
  activeSet : XoverUse
  /-- A distance awaits the zone's next block boundary (R111). -/
  distanceDue : Bool
  /-- The output word sent last. -/
  word : Int
  deriving DecidableEq, Repr

/-! ## Amplifier link (07) -/

inductive TxnKind where
  | readStatus | writeEnable | readDesc | clearFault | writeMute
  deriving DecidableEq, Repr

/-- A transaction waiting or in flight (R126). The payload of a read is 0. -/
structure Txn where
  identity : Identity
  kind : TxnKind
  payload : Byte
  deriving DecidableEq, Repr

inductive Presence where
  | present | absent
  deriving DecidableEq, Repr

/-- The four fault bits of a channel (R119). -/
structure FaultBits where
  tempWarn : Bool
  tempShut : Bool
  overcurrent : Bool
  dcFault : Bool
  deriving DecidableEq, Repr

/-- A filled entry of the module table (R119). -/
structure Entry where
  identity : Identity
  address : Nat
  presence : Presence
  misses : Nat
  supplyLow : Bool
  temperature : Option Int
  /-- The fault bits of channels 1, 2, …: as many as the channel count. -/
  faults : List FaultBits
  /-- The time of the last poll expiry, or of becoming PRESENT before the first one (R131, R137, log 40). The poll timer runs from it while
  the module is PRESENT. -/
  polled : Nat
  deriving DecidableEq, Repr

inductive Origin where
  | start | host | join
  deriving DecidableEq, Repr

inductive EnumEnd where
  | noResponse | roundLimit | tableFull
  deriving DecidableEq, Repr

/-- An enumeration in flight (R122): its origin, rounds completed, modules assigned, rounds failed. -/
structure EnumRun where
  origin : Origin
  rounds : Nat
  assigned : Nat
  failed : Nat
  deriving DecidableEq, Repr

/-- The last enumeration result (R125). -/
structure EnumResult where
  assigned : Nat
  failed : Nat
  cause : EnumEnd
  deriving DecidableEq, Repr

/-- The winner of a round and the address and entry decided for it (R123). -/
structure Winner where
  identity : Identity
  address : Nat
  entry : EntryId
  deriving DecidableEq, Repr

/-- What the link is doing (R118, R127). `again` marks the repeat of an exchange that was not acknowledged. -/
inductive Exchange where
  /-- HELD: no traffic. -/
  | held
  /-- Nothing under way and nothing waiting. -/
  | idle
  /-- A transaction in flight. -/
  | txn (t : Txn) (again : Bool)
  /-- The ASSIGN that drops the address of a module gone ABSENT (R130). -/
  | release (identity : Identity)
  /-- A stall recovery that found the line still low, the ASSIGN owed after it, and whether the stall was in a round, which fails
  after it (R123, R129, R130). -/
  | recovery (owed : Option Identity) (round : Bool)
  /-- The request window after a transaction, a round or a recovery is due (R127). -/
  | window
  /-- A request exchange with the module that won the arbitration (R134). -/
  | request (address : BitVec 3)
  /-- The assignment call of a round (R123). -/
  | call
  | assign (w : Winner) (again : Bool)
  | desc (w : Winner) (again : Bool)
  deriving DecidableEq, Repr

structure LinkCounters where
  completed : Nat
  naks : Nat
  stalls : Nat
  discarded : Nat
  roundsFailed : Nat
  deriving DecidableEq, Repr

/-- The link controller (R118, R119, R126). -/
structure Link where
  exchange : Exchange
  /-- The join policy is ACCEPT. -/
  accept : Bool
  enumPending : Option Origin
  enumRun : Option EnumRun
  joinPending : Bool
  stuck : Bool
  lastResult : Option EnumResult
  counters : LinkCounters
  table : Vector (Option Entry) 6
  urgent : List Txn
  ordinary : List Txn
  marks : List Txn
  /-- The identity and address of the ASSIGN sent last without an acknowledge being awaited; no identity: every module. -/
  lastAssign : Option (Option Identity × Nat)
  /-- Whether the part acknowledged the last request of a module; none before the first (R134, R135). -/
  lastAck : Option Bool
  /-- The changed-entry set (R136). -/
  changed : List Nat
  deriving DecidableEq, Repr

/-! ## Protection unit (08) -/

inductive ProtState where
  | normal | warned | shut | recovering | latched
  deriving DecidableEq, Repr

inductive ProtCause where
  | none | temp | current | dc | link
  deriving DecidableEq, Repr

/-- A protection record (R138). -/
structure ProtRecord where
  state : ProtState
  cause : ProtCause
  reduction : Nat
  muted : Bool
  /-- The overcurrent count and the time its window began (R143). -/
  count : Nat
  windowStart : Nat
  /-- When the hold-off timer started, while it runs (R144). -/
  holdOff : Option Nat
  deriving DecidableEq, Repr

/-- What the protection unit holds for a module: its supply flag, the temperature last reported in a thermal item, the
mute mask last requested and the records of its channels (R138, R150). It stands under the number of the module's
entry, which the module keeps while it has records. -/
structure ProtModule where
  supplyLow : Bool
  temperature : Option Int
  muteMask : Byte
  records : List ProtRecord
  deriving DecidableEq, Repr

/-! ## Tuner (09), station memory and station data (10) -/

inductive TunerState where
  | off | idle | tuning | seeking | scanning | checking | fault
  deriving DecidableEq, Repr

inductive Band where
  | fm | am
  deriving DecidableEq, Repr

inductive Region where
  | khz9 | khz10
  deriving DecidableEq, Repr

/-- Strength in dBµV, multipath, stereo (R152). -/
structure Quality where
  strength : Nat
  multipath : Nat
  stereo : Bool
  deriving DecidableEq, Repr

inductive TunerOpKind where
  | tune | seek | scan
  deriving DecidableEq, Repr

/-- The host operation whose reply is outstanding (R152). -/
structure TunerOp where
  kind : TunerOpKind
  start : Nat
  /-- The loop counter of a seek. -/
  loop : Nat
  /-- The found count of a scan, and whether it ended at LIST_FULL. -/
  found : Nat
  listFull : Bool
  deriving DecidableEq, Repr

/-- What the tuner controller is carrying out. -/
inductive Job where
  | none
  /-- A tune (R158), or one that has been aborted (R159). -/
  | tune (aborted : Bool)
  /-- The steps of a seek in a direction (R161). -/
  | seekStep (up : Bool)
  /-- The alignment search and second measurement of a found station. -/
  | seekFound (aborted : Bool)
  /-- The steps of a scan (R163). -/
  | scanStep
  | scanFound
  /-- A return tune toward a channel (R160); `keeps` for the one that ends a check. -/
  | back (channel : Nat) (keeps : Bool)
  /-- A check: the original channel and the index of the alternate being tried (R166). -/
  | check (original index : Nat)
  deriving DecidableEq, Repr

/-- The step of the visit to one channel (R153, R158). A number is the time the step's timer started. -/
inductive TunerStep where
  | rest
  | setFrequency
  | settle (since : Nat)
  /-- A SET_ALIGNMENT in flight: a value, or SEARCH. -/
  | setAlignment (value : Option Byte)
  | search (since : Nat)
  | wait (since : Nat)
  | read
  | ident (since : Nat)
  deriving DecidableEq, Repr

/-- The tuner record (R152) and the step of what it carries out. -/
structure Tuner where
  state : TunerState
  band : Band
  channel : Nat
  region : Region
  alignment : Byte
  quality : Quality
  strengthThreshold : Nat
  multipathThreshold : Nat
  followThreshold : Nat
  follow : Bool
  op : Option TunerOp
  job : Job
  step : TunerStep
  /-- The transaction in flight is the repeat of one that was not acknowledged (R153). -/
  again : Bool
  /-- The station-memory lookup of this visit was a hit. -/
  hit : Bool
  /-- When the low-signal timer started, while it runs (R166). -/
  lowSince : Option Nat
  /-- The time from which the next monitor read is counted (R156). -/
  monitorSince : Nat
  deriving DecidableEq, Repr

/-- An entry of the station list (R162). -/
structure Station where
  band : Band
  channel : Nat
  strength : Nat
  code : Option (BitVec 16)
  name : Option (List Byte)
  deriving DecidableEq, Repr

/-- A valid entry of station memory (R170). A locked entry has no rank. -/
structure StationEntry where
  band : Band
  channel : Nat
  rank : Option Nat
  alignment : Byte
  quality : Quality
  code : Option (BitVec 16)
  name : Option (List Byte)
  deriving DecidableEq, Repr

/-- A set of four ways. -/
abbrev StationSet := Vector (Option StationEntry) 4

/-- Station memory (R170). -/
structure StationMemory where
  sets : Vector StationSet 16
  lockMode : Bool
  notStored : Nat
  deriving DecidableEq, Repr

inductive EndCause where
  | none | clear | identity | retune | powerOff | timeout
  deriving DecidableEq, Repr

/-- The station data decoder (R176). -/
structure StationData where
  candidate : Option (BitVec 16 × Nat)
  stable : Option (BitVec 16)
  capable : Bool
  stereo : Bool
  /-- The four segments of two characters. -/
  name : Vector (Option (Byte × Byte)) 4
  alternates : List Nat
  /-- When the announcement started, while it is active. -/
  active : Option Nat
  setRun : Nat
  clearRun : Nat
  rearm : Bool
  endCause : EndCause
  badGroups : Nat
  /-- Starts and ends since the last ANNOUNCE notice was placed (R183). -/
  starts : Nat
  ends : Nat
  deriving DecidableEq, Repr

/-! ## Command processor (11) -/

/-- A command frame in the command queue (11.2). -/
structure Command where
  kind : Byte
  tag : Byte
  flags : Byte
  payload : List Byte
  deriving DecidableEq, Repr

/-- A message of the outgoing queue. -/
structure Message where
  kind : Byte
  tag : Byte
  payload : List Byte
  deriving DecidableEq, Repr

inductive LongKind where
  | tuner | enumeration
  deriving DecidableEq, Repr

/-- A long operation in flight: its reservation waits for the reply (R187). -/
structure LongOp where
  kind : LongKind
  command : Byte
  tag : Byte
  deriving DecidableEq, Repr

/-- An open group (R191): the commands staged and when the group timer started. -/
structure OpenGroup where
  count : Nat
  since : Nat
  deriving DecidableEq, Repr

/-- The thirteen notice kinds, in order of their numbers 0..12. -/
inductive NoticeKind where
  | start | zone | source | decoder | format | clip | slot | protect | link | tuner | station | announce | group
  deriving DecidableEq, Repr

/-- The number of a notice kind. -/
def NoticeKind.number : NoticeKind → Fin 13
  | .start => 0
  | .zone => 1
  | .source => 2
  | .decoder => 3
  | .format => 4
  | .clip => 5
  | .slot => 6
  | .protect => 7
  | .link => 8
  | .tuner => 9
  | .station => 10
  | .announce => 11
  | .group => 12

/-- The command processor (R184 to R195). -/
structure Control where
  notReady : Bool
  dropped : Bool
  commands : List Command
  longOps : List LongOp
  outgoing : List Message
  /-- Segments of the head message already completed (R184). -/
  segmentsDone : Nat
  enabled : Vector Bool 13
  latched : Vector Bool 13
  group : Option OpenGroup
  groupsExpired : Nat
  commandsDiscarded : Nat
  zonesDiscarded : List Nat
  deriving DecidableEq, Repr

/-! ## The whole part -/

/-- The state of the part. -/
structure State where
  /-- The model's clock in ms (log 1). -/
  now : Nat
  /-- The commands that are waiting, first in, first out. -/
  pending : List Instr
  ports : Vector Port 11
  changedPorts : List Nat
  sources : Vector Source 16
  zones : Vector Zone 3
  waitList : List ZoneId
  changedZones : List Nat
  decoders : Vector Decoder 2
  changedDecoders : List Nat
  changedFormats : List Nat
  slots : Vector Slot 16
  changedClips : List Nat
  changedSlots : List Nat
  /-- The rate codes of the three line lanes, and of the amplifier lanes whose rate code is not 2 (R106). -/
  lineRates : Vector RateCode 3
  ampRates : List (Identity × RateCode)
  link : Link
  prot : Vector (Option ProtModule) 6
  changedProt : List (Identity × Nat)
  allRemoved : Bool
  tuner : Tuner
  stations : List Station
  stationMemory : StationMemory
  stationData : StationData
  control : Control
  /-- The notice kinds raised in the present event (log 4). -/
  raised : Vector Bool 13
  /-- The bytes the part sent in the last transfer (log 21). -/
  dataOut : List Byte
  /-- The index of the next free value (log 8). -/
  freeCount : Nat
  deriving DecidableEq, Repr

/-! ## Reset values -/

def Port.reset : Port :=
  { state := .off, rate := none, content := .undetermined, nonAudio := false, stability := none, phase := .seek, count := 0 }

def Source.reset : Source :=
  { enabled := false, port := 0, width := 24, map := [Role.FL, Role.FR], trim := 0, offset := 0 }

/-- The bypass coefficients (R73). -/
def XoverSet.bypass : XoverSet := { b0 := 2 ^ 30, b1 := 0, b2 := 0, a1 := 0, a2 := 0 }

/-- The default layouts (R85). -/
def Layout.default (z : ZoneId) : Layout :=
  let stereo : Layout := ((Vector.replicate 12 Size.absent).set 0 .large).set 1 .large
  if z = 0 then stereo.set 2 .large else stereo

def ZoneStaged.empty : ZoneStaged :=
  { volume := none, mute := none, lipsync := none, dynamicGain := none, upmix := none, layout := none, high := none,
    low := none, loads := [], mode := none }

/-- A zone after reset (2.1, R18, R85, R95, R97). -/
def Zone.reset (z : ZoneId) : Zone :=
  { state := .standby, source := none, reason := none, rate := none, map := none, volume := -80, maxVolume := 24,
    mute := false, lipsync := 0, policy := .ignore, annSource := none, annVolume := -80, dynamicGain := true,
    upmix := false, matrixMode := .default, decoder := none, delayClamped := false, annMissed := false, stack := [],
    allocation := 0, hold := none, layout := Layout.default z, high := .bypass, low := .bypass, store := none,
    matrix := none, stale := false, deriveDue := false, lipsyncDue := false, highDue := false, lowDue := false,
    staged := .empty,
    active := { volume := -80, dynamicGain := true, sourceTrim := 0, layout := Layout.default z, high := .bypass,
                low := .bypass },
    delay := 0, lines := [], rampOut := false, blockPos := none, spanPos := 0 }

def Decoder.reset : Decoder :=
  { state := .idle, port := none, mode := .scan, confirm := none, ready := none, playing := none, clock := false,
    playPos := 0, header := none, metadata := none, chain := none, bad := 0, lastCause := .none,
    counters := { good := 0, rejected := 0, syncLosses := 0, ignored := 0, jumps := 0, slips := 0 } }

def SlotStaged.empty : SlotStaged := { distance := none, trim := none, limit := none }

def Slot.reset : Slot :=
  { assigned := none, state := .unassigned, distance := 0, delay := 0, trim := 0, limit := 0, reduction := 0, u1 := 0,
    u2 := 0, y1 := 0, y2 := 0, line := [], g := 0, target := 0, overflow := false, limited := false, clips := 0,
    staged := .empty, activeTrim := 0, activeLimit := 0, activeSet := .bypass, distanceDue := false, word := 0 }

def LinkCounters.zero : LinkCounters := { completed := 0, naks := 0, stalls := 0, discarded := 0, roundsFailed := 0 }

def Link.reset : Link :=
  { exchange := .held, accept := false, enumPending := none, enumRun := none, joinPending := false, stuck := false,
    lastResult := none, counters := .zero, table := Vector.replicate 6 none, urgent := [], ordinary := [], marks := [],
    lastAssign := none, lastAck := none, changed := [] }

def Tuner.reset : Tuner :=
  { state := .off, band := .fm, channel := 0, region := .khz9, alignment := 128,
    quality := { strength := 0, multipath := 0, stereo := false }, strengthThreshold := 30, multipathThreshold := 40,
    followThreshold := 20, follow := false, op := none, job := .none, step := .rest, again := false, hit := false,
    lowSince := none, monitorSince := 0 }

def StationMemory.reset : StationMemory :=
  { sets := Vector.replicate 16 (Vector.replicate 4 none), lockMode := false, notStored := 0 }

def StationData.reset : StationData :=
  { candidate := none, stable := none, capable := false, stereo := false, name := Vector.replicate 4 none,
    alternates := [], active := none, setRun := 0, clearRun := 0, rearm := false, endCause := .none, badGroups := 0,
    starts := 0, ends := 0 }

/-- The command processor when initialisation begins: NOT_READY set, everything else clear or empty (R195). -/
def Control.reset : Control :=
  { notReady := true, dropped := false, commands := [], longOps := [], outgoing := [], segmentsDone := 0,
    enabled := Vector.replicate 13 true, latched := Vector.replicate 13 false, group := none, groupsExpired := 0,
    commandsDiscarded := 0, zonesDiscarded := [] }

/-- The part right after a hard reset: the reset input has been released, initialisation has begun (R195, log 3). -/
def State.reset : State :=
  { now := 0, pending := [], ports := Vector.replicate 11 .reset, changedPorts := [],
    sources := Vector.replicate 16 .reset,
    zones := (((Vector.replicate 3 (Zone.reset 0)).set 1 (Zone.reset 1)).set 2 (Zone.reset 2)),
    waitList := [], changedZones := [], decoders := Vector.replicate 2 .reset, changedDecoders := [],
    changedFormats := [], slots := Vector.replicate 16 .reset, changedClips := [], changedSlots := [],
    lineRates := Vector.replicate 3 2, ampRates := [], link := .reset, prot := Vector.replicate 6 none,
    changedProt := [], allRemoved := false, tuner := .reset, stations := [], stationMemory := .reset,
    stationData := .reset, control := .reset, raised := Vector.replicate 13 false, dataOut := [], freeCount := 0 }

end Sys2Proof.Machine
end

