-- ==== Sys2Proof/WellFormed.lean ====
section
/-! DEFINITION. Which commands can be what the outside does: the ranges and shapes the spec gives their operands. -/

namespace Sys2Proof

/-- P0 to P5: the serial and biphase ports (R1). -/
def PortId.watched (p : PortId) : Bool := p.val ≤ 5

/-- P3 to P5: the biphase ports (R1). -/
def PortId.biphase (p : PortId) : Bool := 3 ≤ p.val && p.val ≤ 5

/-- P6 to P9: the converter ports (R1). -/
def PortId.converter (p : PortId) : Bool := 6 ≤ p.val && p.val ≤ 9

/-- A word of as many bits as it says; only a serial port (P0 to P2) brings words of another length than 24 (R1). -/
def InputWord.fits (w : InputWord) (serial : Bool) : Bool := w.value < 2 ^ w.length && (serial || w.length == 24)

/-- A reading inside the ranges of the tuner record (R152). -/
def Reading.inRange (q : Reading) : Bool := q.strength.toNat ≤ 120 && q.multipath.toNat ≤ 100

/-- A command whose operands the spec allows. -/
def Instr.wellFormed : Instr → Bool
  | .clockSeen p | .stabilityTimerExpiry p | .clockLost p => p.watched
  | .rateRecognitionChange p _ | .rateChange p _ => p.watched
  | .wordTaken p w | .wordCountLimit p w => p.watched && w.fits (p.val ≤ 2)
  | .channelStatusBlock p _ => p.biphase
  | .otherTransfer first _ => 3 ≤ first.toNat
  | .zoneSamplePeriod _ words => words.length ≤ 8 && words.all (·.fits true)
  | .transactionComplete (.acknowledged reply) => reply.length ≤ 10
  | .requestWindow addresses => addresses.all (fun a => a ≠ 0)
  | .faultRequest kind _ _ _ => kind ≠ 2#8
  | .tunerTransactionComplete (.acknowledged q) => q.inRange
  | .monitorRead (some q) => q.inRange
  | .alternateIdentGroup g | .stationDataGroup g => g.length = 7
  | _ => true

end Sys2Proof
end

