-- ==== Sys2Proof/Machine/Ops.lean ====
section
/-! DEFINITION. The named operations every block uses: reading and writing one record, raising a notice, joining a
changed set, the clock, counting reservations. -/

namespace Sys2Proof.Machine

/-! ## Reading and writing one record -/

def State.port (s : State) (p : PortId) : Port := s.ports[p]
def State.source (s : State) (e : SourceId) : Source := s.sources[e]
def State.zone (s : State) (z : ZoneId) : Zone := s.zones[z]
def State.decoder (s : State) (d : DecoderId) : Decoder := s.decoders[d]
def State.slot (s : State) (i : SlotId) : Slot := s.slots[i]
def State.entry (s : State) (k : EntryId) : Option Entry := s.link.table[k]
def State.protModule (s : State) (k : EntryId) : Option ProtModule := s.prot[k]

def State.setPort (s : State) (p : PortId) (x : Port) : State := { s with ports := s.ports.set p x }
def State.setSource (s : State) (e : SourceId) (x : Source) : State := { s with sources := s.sources.set e x }
def State.setZone (s : State) (z : ZoneId) (x : Zone) : State := { s with zones := s.zones.set z x }
def State.setDecoder (s : State) (d : DecoderId) (x : Decoder) : State := { s with decoders := s.decoders.set d x }
def State.setSlot (s : State) (i : SlotId) (x : Slot) : State := { s with slots := s.slots.set i x }
def State.setLink (s : State) (x : Link) : State := { s with link := x }
def State.setEntry (s : State) (k : EntryId) (x : Option Entry) : State :=
  { s with link := { s.link with table := s.link.table.set k x } }
def State.setProtModule (s : State) (k : EntryId) (x : Option ProtModule) : State := { s with prot := s.prot.set k x }
def State.setTuner (s : State) (x : Tuner) : State := { s with tuner := x }
def State.setStationData (s : State) (x : StationData) : State := { s with stationData := x }
def State.setStationMemory (s : State) (x : StationMemory) : State := { s with stationMemory := x }
def State.setControl (s : State) (x : Control) : State := { s with control := x }

/-! ## Notices raised and changed sets -/

/-- A block raises a notice of kind `k`; it is placed or latched when the event ends (R188, log 4). -/
def State.raise (s : State) (k : NoticeKind) : State := { s with raised := s.raised.set k.number true }

/-- A change of a port joins the changed-port set and raises SOURCE (R12). -/
def State.markPort (s : State) (p : PortId) : State :=
  { s with changedPorts := insertAsc p s.changedPorts }.raise .source

/-- A change of a zone joins the changed-zone set and raises ZONE (R24). -/
def State.markZone (s : State) (z : ZoneId) : State :=
  { s with changedZones := insertAsc z s.changedZones }.raise .zone

/-- R60. -/
def State.markDecoder (s : State) (d : DecoderId) : State :=
  { s with changedDecoders := insertAsc d s.changedDecoders }.raise .decoder

/-- R61. -/
def State.markFormat (s : State) (d : DecoderId) : State :=
  { s with changedFormats := insertAsc d s.changedFormats }.raise .format

/-- R82. -/
def State.markClip (s : State) (i : SlotId) : State :=
  { s with changedClips := insertAsc i s.changedClips }.raise .clip

/-- R117. -/
def State.markSlot (s : State) (i : SlotId) : State :=
  { s with changedSlots := insertAsc i s.changedSlots }.raise .slot

/-- R136. -/
def State.markEntry (s : State) (k : EntryId) : State :=
  (s.setLink { s.link with changed := insertAsc k s.link.changed }).raise .link

/-- The order of the PROTECT set: by identity and then by channel (R151). -/
def insertPair (x : Identity × Nat) : List (Identity × Nat) → List (Identity × Nat)
  | [] => [x]
  | y :: ys =>
    if x = y then y :: ys
    else if x.1.toNat < y.1.toNat ∨ (x.1 = y.1 ∧ x.2 < y.2) then x :: y :: ys
    else y :: insertPair x ys

/-- R151. -/
def State.markProt (s : State) (id : Identity) (ch : Nat) : State :=
  { s with changedProt := insertPair (id, ch) s.changedProt }.raise .protect

/-- The changes of a zone that R24 notices: state, reason, selected source, bound decoder, stack, and a sticky flag
that becomes set. -/
def Zone.noticed (old new : Zone) : Bool :=
  old.state != new.state || old.reason != new.reason || old.source != new.source || old.decoder != new.decoder ||
  old.stack != new.stack || (!old.delayClamped && new.delayClamped) || (!old.annMissed && new.annMissed)

/-- Writes a zone record and notices what R24 notices. -/
def State.updZone (s : State) (z : ZoneId) (f : Zone → Zone) : State :=
  let s' := s.setZone z (f (s.zone z))
  if (s.zone z).noticed (f (s.zone z)) then s'.markZone z else s'

/-- Writes a decoder record and notices a change of state or bound port (R60). -/
def State.updDecoder (s : State) (d : DecoderId) (f : Decoder → Decoder) : State :=
  let s' := s.setDecoder d (f (s.decoder d))
  if (s.decoder d).state != (f (s.decoder d)).state || (s.decoder d).port != (f (s.decoder d)).port then s'.markDecoder d
  else s'

/-- Writes a slot record and notices a change of its state, zone, role or destination (R117). -/
def State.updSlot (s : State) (i : SlotId) (f : Slot → Slot) : State :=
  let s' := s.setSlot i (f (s.slot i))
  if (s.slot i).state != (f (s.slot i)).state || (s.slot i).assigned != (f (s.slot i)).assigned then s'.markSlot i else s'

/-- Writes the tuner record and notices a change of state, band, channel, region or follow switch (R169). -/
def State.updTuner (s : State) (f : Tuner → Tuner) : State :=
  let t := s.tuner
  let t' := f t
  let s' := s.setTuner t'
  if t.state != t'.state || t.band != t'.band || t.channel != t'.channel || t.region != t'.region || t.follow != t'.follow
  then s'.raise .tuner else s'

/-! ## The clock (log 1) -/

/-- A timer that runs toward `limit` from `since` reaches it: the clock stands at that moment, or later if it had
already passed it. -/
def State.reach (s : State) (since limit : Nat) : State := { s with now := max s.now (since + limit) }

/-- How long a timer started at `since` has run, at most `limit`. -/
def State.elapsed (s : State) (since limit : Nat) : Nat := min limit (s.now - since)

/-! ## The outgoing queue's room (R185, R188) -/

/-- Reply reservations outstanding: one for each queued command and each long operation in flight (R185, R187). -/
def Control.reservations (c : Control) : Nat := c.commands.length + c.longOps.length

/-- Messages and reservations together leave a place free (R188). -/
def Control.hasRoom (c : Control) : Bool := c.outgoing.length + c.reservations < Config.outgoingPlaces

/-- The attention line is asserted while the outgoing queue holds a message (R184). -/
def State.attention (s : State) : Bool := !s.control.outgoing.isEmpty

/-- A message joins the tail of the outgoing queue. -/
def State.pushMessage (s : State) (m : Message) : State :=
  s.setControl { s.control with outgoing := s.control.outgoing ++ [m] }

/-! ## Conditions several blocks read -/

/-- A port is named while at least one enabled source entry names it (1.2). -/
def State.named (s : State) (p : PortId) : Bool :=
  allSources.any fun e => (s.source e).enabled && (s.source e).port == p

/-- The port of a zone's selected source. -/
def State.portOf (s : State) (z : ZoneId) : Option PortId := (s.zone z).source.map fun e => (s.source e).port

/-- A zone is powered in every state except STANDBY (2.1). -/
def Zone.powered (z : Zone) : Bool := z.state != .standby

/-- A zone runs its stages while it is RUNNING and during the ramp-out that follows (R63, R79). -/
def Zone.runsStages (z : Zone) : Bool := z.state == .running || z.rampOut

/-- The users of a decoder: the zones whose bound-decoder field names it (R50). -/
def State.users (s : State) (d : DecoderId) : List ZoneId := allZones.filter fun z => (s.zone z).decoder == some d

/-- The decoder bound to a port. -/
def State.decoderOn (s : State) (p : PortId) : Option DecoderId := allDecoders.find? fun d => (s.decoder d).port == some p

/-- The slots assigned to a zone. -/
def State.slotsOf (s : State) (z : ZoneId) : List SlotId :=
  allSlots.filter fun i => (s.slot i).assigned.any fun a => a.zone == z

/-- The filled entry that holds an identity. -/
def State.entryOf (s : State) (id : Identity) : Option EntryId :=
  allEntries.find? fun k => (s.entry k).any fun e => e.identity == id

/-- An entry is in use (R13): selected by a powered zone, saved on a stack, or the announcement source of a zone
with policy FOLLOW. -/
def State.inUse (s : State) (e : SourceId) : Bool :=
  allZones.any fun z =>
    ((s.zone z).powered && (s.zone z).source == some e) || (s.zone z).stack.any (fun x => x.source == some e) ||
    ((s.zone z).policy == .follow && (s.zone z).annSource == some e)

end Sys2Proof.Machine
end

