-- ==== Sys2Proof/Machine/Operands.lean ====
section
/-! DEFINITION. The control port's messages as bytes: the fields of a command's payload (R186), the frame of a WRITE
transfer (R185), the form check (R187), the coding of reply and notice data (R186, log 6) and the segments of a
message (R184, log 7). -/

namespace Sys2Proof.Machine

/-! ## Reading a payload (R186): values of more than one byte come most significant byte first -/

/-- The unsigned value of a run of bytes, the first most significant. -/
def beNat (bs : List Byte) : Nat := bs.foldl (fun n b => n * 256 + b.toNat) 0

/-- The two's complement value of `n` bytes that read `v` unsigned. -/
def signed (n v : Nat) : Int := if 2 * v < 256 ^ n then v else (v : Int) - (256 ^ n : Nat)

/-- The `n` bytes of a payload from byte `at`, unsigned. -/
def uField (pl : List Byte) (start n : Nat) : Nat := beNat ((pl.drop start).take n)

/-- The `n` bytes of a payload from byte `at`, two's complement. -/
def sField (pl : List Byte) (start n : Nat) : Int := signed n (uField pl start n)

/-- A six-byte module identity. -/
def idField (pl : List Byte) (start : Nat) : Identity := BitVec.ofNat 48 (uField pl start 6)

/-- An optional source id: 0..15, none is 255 (R186). The outer option is absent for any other value. -/
def sourceField (v : Nat) : Option (Option SourceId) :=
  if v = 255 then some none else (toFin? 16 v).map some

/-- A field of two values named by words: 0 for the first, 1 for the second (R186). -/
def wordField (v : Nat) : Option Bool := if v = 0 then some true else if v = 1 then some false else none

/-- Role codes that are distinct roles, or none (R14, R98). -/
def rolesOf (codes : List Byte) : Option (List Role) :=
  let rs := codes.map fun b => toFin? 12 b.toNat
  if rs.all (·.isSome) && (rs.filterMap id).Nodup then some (rs.filterMap id) else none

/-! ## Kinds (11.2) -/

def kindReply : Byte := 0x80

/-- The payload length each command kind requires (R186), the sum of the widths of its fields; MATRIX.LOAD's own rule
stands in place of one (R98). `none`: the kind is not a command kind. -/
def kindLength (kind : Nat) : Option (Option Nat) :=
  match kind with
  | 0x01 => some (some 0)
  | 0x02 => some (some 2)
  | 0x10 => some (some 16)
  | 0x11 => some (some 2)
  | 0x12 => some (some 1)
  | 0x20 => some (some 2)
  | 0x21 => some (some 2)
  | 0x22 => some (some 3)
  | 0x23 => some (some 3)
  | 0x24 => some (some 2)
  | 0x25 => some (some 4)
  | 0x26 => some (some 1)
  | 0x27 => some (some 5)
  | 0x28 => some (some 3)
  | 0x29 => some (some 2)
  | 0x2A => some (some 2)
  | 0x2B => some (some 1)
  | 0x2C => some (some 1)
  | 0x30 => some (some 1)
  | 0x38 => some (some 13)
  | 0x39 => some (some 22)
  | 0x3A => some none
  | 0x3B => some (some 2)
  | 0x40 => some (some 12)
  | 0x41 => some (some 1)
  | 0x42 => some (some 3)
  | 0x43 => some (some 3)
  | 0x44 => some (some 3)
  | 0x45 => some (some 2)
  | 0x50 => some (some 1)
  | 0x51 => some (some 0)
  | 0x52 => some (some 0)
  | 0x53 => some (some 0)
  | 0x58 => some (some 7)
  | 0x59 => some (some 6)
  | 0x60 => some (some 1)
  | 0x61 => some (some 1)
  | 0x62 => some (some 7)
  | 0x63 => some (some 3)
  | 0x64 => some (some 1)
  | 0x65 => some (some 1)
  | 0x66 => some (some 0)
  | 0x67 => some (some 0)
  | 0x68 => some (some 2)
  | 0x69 => some (some 0)
  | 0x70 => some (some 1)
  | 0x71 => some (some 3)
  | 0x72 => some (some 3)
  | 0x73 => some (some 0)
  | 0x74 => some (some 1)
  | _ => none

/-- The length MATRIX.LOAD's channel count and row count require (R98): zone, option, count, n roles, row count, and
for each row a role and n two-byte coefficients. -/
def matrixLoadLength (pl : List Byte) : Nat :=
  let n := uField pl 2 1
  4 + n + uField pl (3 + n) 1 * (1 + 2 * n)

/-- The payload is as long as the kind requires (R186, R98). -/
def Command.lengthRight (c : Command) : Bool :=
  match kindLength c.kind.toNat with
  | none => false
  | some (some n) => c.payload.length == n
  | some none => c.payload.length == matrixLoadLength c.payload

/-- The form check of R187 for a command whose kind is a command kind: length, and bits 7..1 of the flags zero. -/
def Command.formRight (c : Command) : Bool := c.lengthRight && c.flags &&& 0xFE == 0

/-- Bit 0 of the flags of a command (11.2). -/
def Command.continues (c : Command) : Bool := c.flags &&& 1 == 1

/-- The frame of a WRITE transfer, when it is complete and its length byte is 3..250 (R185). -/
def frameOf : List Byte → Option Command
  | [] => none
  | len :: rest =>
    if 3 ≤ len.toNat ∧ len.toNat ≤ 250 ∧ len.toNat ≤ rest.length then
      some { kind := rest.getD 0 0, tag := rest.getD 1 0, flags := rest.getD 2 0, payload := (rest.take len.toNat).drop 3 }
    else none

/-! ## Result codes (11.2) -/

inductive Result where
  | ok | clamped | badFormat | badValue | notNow | noResource | conflict | aborted | notFound
  deriving DecidableEq, Repr

def Result.code : Result → Byte
  | .ok => 0
  | .clamped => 1
  | .badFormat => 2
  | .badValue => 3
  | .notNow => 4
  | .noResource => 5
  | .conflict => 6
  | .aborted => 7
  | .notFound => 8

/-- CLAMPED when a value was changed by its clamp, OK otherwise. -/
def Result.ofClamp (changed : Bool) : Result := if changed then .clamped else .ok

/-! ## Writing data (R186, log 6) -/

def enc1 (n : Nat) : List Byte := [BitVec.ofNat 8 n]
def enc2 (n : Nat) : List Byte := enc1 (n / 256) ++ enc1 n
def enc4 (n : Nat) : List Byte := enc2 (n / 65536) ++ enc2 n
def enc6 (x : Identity) : List Byte := enc2 (x.toNat / 2 ^ 32) ++ enc4 x.toNat

/-- A two-byte two's complement value. -/
def encInt2 (x : Int) : List Byte := enc2 (BitVec.ofInt 16 x).toNat

/-- A one-byte two's complement value. -/
def encInt1 (x : Int) : List Byte := [BitVec.ofInt 8 x]

/-- A flag or a yes-or-no item: 1 for set or yes. -/
def encFlag (b : Bool) : List Byte := enc1 (if b then 1 else 0)

/-- An item listed as "on, off": 0 for on, 1 for off, as the words stand in the table (R186). -/
def encOn (b : Bool) : List Byte := enc1 (if b then 0 else 1)

/-- An item that may be absent: a byte 1 or 0, then the item. -/
def encOpt {α : Type} (f : α → List Byte) : Option α → List Byte
  | none => [0]
  | some x => 1 :: f x

/-- A list: its number of elements, then the elements. -/
def encList {α : Type} (f : α → List Byte) (l : List α) : List Byte := enc1 l.length ++ l.flatMap f

/-- A source, a zone or a decoder that may be none: none is 255. -/
def encIndex {n : Nat} (x : Option (Fin n)) : List Byte := enc1 (x.elim 255 (·.val))

def encRate (r : RateCode) : List Byte := enc1 r.val
def encRole (r : Role) : List Byte := enc1 r.val

/-! ## Segments (R184) -/

/-- How many segments a message takes. -/
def Message.segments (m : Message) : Nat := max 1 ((m.payload.length + Config.segmentPayload - 1) / Config.segmentPayload)

/-- Segment `k` of a message: its length byte, the kind and tag repeated, the flags with bit 0 set on every segment
but the last, and its part of the payload. Segments are filled in order (log 7). -/
def Message.segment (m : Message) (k : Nat) : List Byte :=
  let part := (m.payload.drop (k * Config.segmentPayload)).take Config.segmentPayload
  let flags : Byte := if k + 1 < m.segments then 1 else 0
  enc1 (3 + part.length) ++ [m.kind, m.tag, flags] ++ part

/-! ## Placing replies (R187) -/

/-- A reply to command `c`: the result code, the kind of the command, the data. -/
def replyTo (kind tag : Byte) (r : Result) (data : List Byte) : Message :=
  { kind := kindReply, tag := tag, payload := r.code :: kind :: data }

/-- The reply to a command just executed is placed at the tail, in the room its reservation held. -/
def State.reply (s : State) (c : Command) (r : Result) (data : List Byte) : State :=
  s.pushMessage (replyTo c.kind c.tag r data)

/-- A refused or plain reply with no data. -/
def State.answer (s : State) (c : Command) (r : Result) : State := s.reply c r []

/-- A long operation keeps its reservation (R187). -/
def State.holdReply (s : State) (k : LongKind) (c : Command) : State :=
  s.setControl { s.control with longOps := s.control.longOps ++ [{ kind := k, command := c.kind, tag := c.tag }] }

/-- The reply of the long operation of kind `k` is placed into its reservation (R187). -/
def State.replyLong (s : State) (k : LongKind) (r : Result) (data : List Byte) : State :=
  match s.control.longOps.find? (fun o => o.kind == k) with
  | none => s
  | some o =>
    (s.setControl { s.control with longOps := s.control.longOps.filter (fun x => x.kind != k) }).pushMessage
      (replyTo o.command o.tag r data)

/-- The execution of the command at the head of the queue, when it is of kind `kind` (R187): it leaves the queue; a
command of wrong form is answered BAD_FORMAT and nothing else happens; another is handed to its block. With no command
at the head, or one of another kind, this event does not occur (log 2). -/
def State.execute (s : State) (kind : Nat) (body : State → Command → State) : State :=
  match s.control.commands with
  | [] => s
  | c :: rest =>
    if c.kind.toNat ≠ kind then s
    else
      let s := s.setControl { s.control with commands := rest }
      if c.formRight then body s c else s.answer c .badFormat

end Sys2Proof.Machine
end

