-- ==== Sys2Proof/Machine/Arith.lean ====
section
/-! DEFINITION. The exact integer arithmetic of chapter 04 and of R111. A division written `/` on integers has a
positive divisor and is the floor of the exact quotient. -/

namespace Sys2Proof.Machine

/-- Entry `r` of the mantissa table (4.1). -/
def mant (r : Nat) : Nat := Config.mantissa.getD r 0

/-- A level of −s steps as a Q2.14 coefficient: floor(M[r] / 2^q) (R62). -/
def levelCoef (s : Nat) : Nat := mant (s % 12) / 2 ^ (s / 12)

/-- A level of −s steps as a limit: Lim(s) = floor(8,388,607 × M[r] / 2^(14 + q)) (R62). -/
def limitOf (s : Nat) : Nat := 8388607 * mant (s % 12) / 2 ^ (14 + s / 12)

/-- The 24-bit word taken from an input word (R1): filled with zeros at its less significant end when it is shorter, every bit after the
24th discarded when it is longer. -/
def takenWord (x : InputWord) : TWord :=
  BitVec.ofNat 24 (if 24 ≤ x.length then x.value / 2 ^ (x.length - 24) else x.value * 2 ^ (24 - x.length))

/-- A measured rate, in mHz, lies within 0.2 % of a listed rate (R3). -/
def nearRate (measured : Nat) (r : RateCode) : Bool := 998 * Config.rateHz r ≤ measured && measured ≤ 1002 * Config.rateHz r

/-- The listed rate a measured rate, in mHz, is recognised as (R3). No measured rate is near two of them. -/
def recognisedRate (measured : Nat) : Option RateCode := allRates.find? (nearRate measured)

/-- Input conversion of a w-bit sample (R64). -/
def convert (w : Nat) (sample : Int) : Int := sample * 2 ^ (24 - w)

/-- The leading w bits of a 24-bit word as a w-bit two's complement sample (R1). -/
def leadingSample (w : Nat) (x : TWord) : Int := x.toInt / 2 ^ (24 - w)

/-- D_req = floor((ms × fs + 500) / 1000) with ms = lip-sync + offset clamped to 250 (R65). -/
def requestedDelay (lipsync offset fs : Nat) : Nat := (min 250 (lipsync + offset) * fs + 500) / 1000

/-- D_spk = floor((d × fs + 17,150) / 34,300) (R111). -/
def speakerDelay (d fs : Nat) : Nat := (d * fs + 17150) / 34300

/-- A delay line of `d` samples: the value given out when `x` enters, and what the line holds then (R68, R76). The line is the
list of the values that entered since it was filled with zeros, newest first. -/
def delayStep (d : Nat) (line : List Int) (x : Int) : Int × List Int :=
  ((x :: line).getD d 0, (x :: line).take d)

/-- The level sum T, clamped to −192..+24 (R70). -/
def levelSum (volume slotTrim sourceTrim programGain : Int) : Int :=
  clamp (-192) 24 (volume + slotTrim + sourceTrim + programGain)

/-- The level stage: floor((acc × M[r] + 2^(s−1)) / 2^s), with k = 24 − T, q = k div 12, r = k mod 12, s = 26 + q (R71). -/
def levelScale (acc t : Int) : Int :=
  let k := (24 - t).toNat
  let s := 26 + k / 12
  (acc * mant (k % 12) + 2 ^ (s - 1)) / 2 ^ s

/-- The exact sum of a crossover section (R74). -/
def xoverSum (c : XoverSet) (u0 u1 u2 y1 y2 : Int) : Int :=
  c.b0 * u0 + c.b1 * u1 + c.b2 * u2 - c.a1 * y1 - c.a2 * y2

/-- Rounding half toward plus infinity at 2^30 (R74). -/
def xoverRound (w : Int) : Int := (w + 2 ^ 29) / 2 ^ 30

/-- The ramp stage: trunc(v × g / 32) (R77). -/
def rampScale (v : Int) (g : Nat) : Int := (v * g).tdiv 32

/-- One step of the ramp level toward its target (R77). -/
def rampStep (g target : Nat) : Nat := if g < target then g + 1 else if target < g then g - 1 else g

/-- The limit steps L of R80: the slot limit plus the protection reduction, capped at 72. -/
def limitSteps (limit reduction : Nat) : Nat := min 72 (limit + reduction)

/-- The sum of products of one matrix row with the delayed program samples (R69). -/
def rowSum : List Int → List Int → Int
  | c :: cs, x :: xs => c * x + rowSum cs xs
  | _, _ => 0

/-! ## Packed streams: gain (R48, R49) -/

/-- The dynamic gain at position `p`: that of the last point at or before `p`, else the entry gain (R48). -/
def gainAt (entry : Int) (points : List GainPoint) (p : Nat) : Int :=
  points.foldl (fun g q => if q.position ≤ p then q.gain else g) entry

/-- The exit gain: that of the last point, else the entry gain (R48). -/
def exitGainOf (entry : Int) (points : List GainPoint) : Int :=
  points.foldl (fun _ q => q.gain) entry

end Sys2Proof.Machine
end

