-- ==== Sys2Proof/Machine/Flags.lean ====
section
/-! DEFINITION. Saturation and the sticky flags and counters it sets: OVERFLOW, LIMIT, the clip counter (R72, R74,
R80, R81), DELAY_CLAMPED and ANN_MISSED (R66, R37), and the counters that hold at 65,535. -/

namespace Sys2Proof.Machine

/-- A counter in 0..65,535 that holds at 65,535. -/
def count16 (n : Nat) : Nat := countUp 65535 n

/-- `n` events added to a counter that holds at 65,535. -/
def add16 (n k : Nat) : Nat := min 65535 (n + k)

/-- A count in 0..255 that holds at 255. -/
def count8 (n : Nat) : Nat := countUp 255 n

/-- A value saturated to the working range [−2^31, 2^31 − 1] (R72). -/
def saturate (x : Int) : Int := clamp (-(2 ^ 31)) (2 ^ 31 - 1) x

/-- Saturation changes the value: the OVERFLOW condition of R72 and R74. -/
def saturates (x : Int) : Bool := saturate x != x

/-- The output word: y' clamped to −Lim..+Lim (R80). -/
def limitWord (lim : Nat) (y : Int) : Int := clamp (-(lim : Int)) lim y

/-- The clamp of the limit stage changes the value: the LIMIT condition of R80. -/
def limitClamps (lim : Nat) (y : Int) : Bool := limitWord lim y != y

/-- A slot after a sample in which saturation or a clamp occurred or not (R81). Flags already set stay set. -/
def Slot.withFlags (x : Slot) (saturated clip : Bool) : Slot :=
  { x with overflow := x.overflow || saturated, limited := x.limited || clip, clips := if clip then count16 x.clips else x.clips }

/-- A 0 → 1 change of OVERFLOW or LIMIT (R82). -/
def Slot.flagRises (old new : Slot) : Bool := (!old.overflow && new.overflow) || (!old.limited && new.limited)

/-- Both sticky flags of a slot cleared, its clip counter kept (R40). -/
def Slot.clearFlags (x : Slot) : Slot := { x with overflow := false, limited := false }

/-- Both sticky flags and the zone's own (R40). -/
def Zone.clearFlags (z : Zone) : Zone := { z with delayClamped := false, annMissed := false }

end Sys2Proof.Machine
end

