-- ==== Sys2Proof/Machine/DecoderUnit.lean ====
section
/-! DEFINITION. A stream decoder on its own: how it takes a transport word, assembles and checks a frame, completes its
metadata, and what a span boundary plays (R41 to R58). Its effect on zones stands in Machine/Zones.lean. -/

namespace Sys2Proof.Machine

/-! ## Fields of a transport word (3.1) -/

def TWord.endMark (w : TWord) : Bool := w.getLsbD 23
def TWord.payload (w : TWord) : BitVec 23 := w.extractLsb' 0 23
def TWord.isSync (w : TWord) : Bool := w == Config.syncWord
/-- Bits `lo..lo+n−1` of a word, as a number. -/
def TWord.field (w : TWord) (lo n : Nat) : Nat := (w.extractLsb' lo n).toNat

/-- The checks of R41 and R42 on a format word's payload: rate code not 7, channel count 1..12, bits 10..0 zero. -/
def TWord.formatRight (w : TWord) : Bool :=
  TWord.field w 20 3 != 7 && 1 ≤ TWord.field w 16 4 && TWord.field w 16 4 ≤ 12 && TWord.field w 0 11 == 0

/-- A valid candidate format word (R41). -/
def TWord.candidateRight (w : TWord) : Bool := !TWord.endMark w && TWord.formatRight w

/-! ## Assembly -/

/-- What one word does to a frame in assembly. -/
inductive AssemblyStep where
  | more (a : Assembly)
  | rejected (c : RejectCause)
  | verified (a : Assembly)
  deriving DecidableEq, Repr

/-- An assembly that has taken the sync word alone. -/
def Assembly.begin : Assembly :=
  { place := .format, sum := TWord.payload Config.syncWord, rate := 0, channels := 0, hasMetadata := false, sequence := 0, roles := [],
    level := none, centreFold := none, surroundFold := none, points := [], ignored := 0, blocks := [], samples := [] }

/-- The fields of a format word whose checks hold (3.1). -/
def Assembly.takeFormat (a : Assembly) (w : TWord) : Assembly :=
  { a with place := .map 0, sum := a.sum + TWord.payload w, rate := ((toFin? 7 (TWord.field w 20 3)).getD 0), channels := TWord.field w 16 4,
           hasMetadata := w.getLsbD 15, sequence := TWord.field w 11 4 }

/-- The five positions of a map word, in order (3.1). -/
def mapCodes (w : TWord) : List Nat := [TWord.field w 16 4, TWord.field w 12 4, TWord.field w 8 4, TWord.field w 4 4, TWord.field w 0 4]

/-- The map positions read so far with those of one more word; none when a position breaks R42: below n a role code not seen
before, at or beyond n code 15. -/
def takeMapCodes (n : Nat) : List Nat → List Nat → Nat → Option (List Nat)
  | roles, [], _ => some roles
  | roles, c :: cs, pos =>
    if pos < n then (if c ≤ 11 ∧ c ∉ roles then takeMapCodes n (roles ++ [c]) cs (pos + 1) else none)
    else if c = 15 then takeMapCodes n roles cs (pos + 1) else none

/-- The place after the last map word and after the metadata block: channel block 0 (R43). -/
def Place.firstChannel : Place := .channel 0 0

/-- One metadata word (R46): an accepted one sets its item, another is counted as ignored. -/
def Assembly.takeMetadata (a : Assembly) (w : TWord) : Assembly :=
  let v := (w.extractLsb' 0 8).toInt
  match TWord.field w 20 3 with
  | 0 => if -48 ≤ v ∧ v ≤ 0 then { a with level := some v } else { a with ignored := a.ignored + 1 }
  | 1 =>
    if -48 ≤ v ∧ v ≤ 12 ∧ a.points.length < 8 then { a with points := a.points ++ [{ position := TWord.field w 8 8, gain := v }] }
    else { a with ignored := a.ignored + 1 }
  | 2 => if -24 ≤ v ∧ v ≤ 0 then { a with centreFold := some v } else { a with ignored := a.ignored + 1 }
  | 3 => if -24 ≤ v ∧ v ≤ 0 then { a with surroundFold := some v } else { a with ignored := a.ignored + 1 }
  | _ => { a with ignored := a.ignored + 1 }

/-- One word of a frame in assembly (R42 to R44). Where one word breaks an end-mark check and a header check, the end mark is
looked at first (log 17). -/
def Assembly.take (a : Assembly) (w : TWord) : AssemblyStep :=
  let sum := a.sum + TWord.payload w
  match a.place with
  | .format =>
    if TWord.endMark w then .rejected .framing
    else if TWord.formatRight w then .more (a.takeFormat w) else .rejected .format
  | .map k =>
    let last := k + 1 == (a.channels + 4) / 5
    if TWord.endMark w != last then .rejected .framing
    else if TWord.field w 20 3 != 0 then .rejected .format
    else
      match takeMapCodes a.channels a.roles (mapCodes w) (5 * k) with
      | none => .rejected .format
      | some roles =>
        .more { a with sum := sum, roles := roles,
                       place := if !last then .map (k + 1) else if a.hasMetadata then .metadata 0 else .firstChannel }
  | .metadata k =>
    if k = 15 ∧ !TWord.endMark w then .rejected .framing
    else .more { a.takeMetadata w with sum := sum, place := if TWord.endMark w then .firstChannel else .metadata (k + 1) }
  | .channel b i =>
    let last := i + 1 == Config.spanLength
    if TWord.endMark w != last then .rejected .framing
    else
      let samples := (w.extractLsb' 0 20).toInt :: a.samples
      if last then
        .more { a with sum := sum, samples := [], blocks := samples.reverse :: a.blocks,
                       place := if b + 1 < a.channels then .channel (b + 1) 0 else .check }
      else .more { a with sum := sum, samples := samples, place := .channel b (i + 1) }
  | .check =>
    if !TWord.endMark w then .rejected .framing
    else if TWord.payload w = a.sum then .verified a else .rejected .check

/-! ## Verified frames (R44 to R48) -/

/-- The positions of a point list are strictly increasing (R46). -/
def strictlyRising : List GainPoint → Bool
  | p :: q :: rest => p.position < q.position && strictlyRising (q :: rest)
  | _ => true

/-- The point list a verified frame keeps: discarded whole when its positions are not strictly increasing (R46). -/
def Assembly.keptPoints (a : Assembly) : List GainPoint := if strictlyRising a.points then a.points else []

/-- The metadata words a verified frame adds to the ignored counter (R46). -/
def Assembly.ignoredWords (a : Assembly) : Nat := a.ignored + if strictlyRising a.points then 0 else a.points.length

/-- The frame an assembly holds, its metadata completed from the carry chain or its defaults (R47, R48). -/
def Assembly.frame (a : Assembly) (chain : Option Carry) : Frame :=
  let entry := chain.elim 0 (·.exitGain)
  { header := { rate := a.rate, map := a.roles.filterMap (toFin? 12) }
    sequence := a.sequence
    level := a.level.getD (chain.elim 0 (·.level))
    centreFold := a.centreFold.getD (chain.elim (-6) (·.centreFold))
    surroundFold := a.surroundFold.getD (chain.elim (-6) (·.surroundFold))
    points := a.keptPoints
    entryGain := entry
    exitGain := exitGainOf entry a.keptPoints
    samples := a.blocks.reverse }

/-- What a frame hands on (R45, R47, R48, R50). -/
def Frame.carry (f : Frame) : Carry :=
  { sequence := f.sequence, level := f.level, centreFold := f.centreFold, surroundFold := f.surroundFold, points := f.points,
    exitGain := f.exitGain }

/-- The metadata of a frame that begins to play; `g` is the gain in force at the end of the last span (R50). -/
def Frame.metadata (f : Frame) (g : Int) : Metadata :=
  { level := f.level, centreFold := f.centreFold, surroundFold := f.surroundFold, points := f.points, endGain := g }

/-! ## The decoder -/

/-- To SEARCH as at the fourth rejection in a row (R56); a sync loss is counted or not (R57). -/
def Decoder.toSearch (d : Decoder) (loss : Bool) : Decoder :=
  { d with state := .search, mode := .scan, confirm := none, ready := none, playing := none, clock := false, playPos := 0,
           header := none, metadata := none, chain := none, bad := 0,
           counters := if loss then { d.counters with syncLosses := count16 d.counters.syncLosses } else d.counters }

/-- A rejected frame (R50, R52, R56). -/
def Decoder.reject (d : Decoder) (c : RejectCause) : Decoder :=
  let d := { d with lastCause := c, mode := .scan, counters := { d.counters with rejected := count16 d.counters.rejected } }
  match d.state with
  | .locked | .hold => if 4 ≤ d.bad + 1 then d.toSearch true else { d with state := .hold, bad := d.bad + 1 }
  | _ => d

/-- A verified frame: the first of a chain in SEARCH (R52); ready in LOCKED and HOLD at the current rate (R54, R56); awaiting
confirmation at another rate (R55). -/
def Decoder.verify (d : Decoder) (a : Assembly) : Decoder :=
  let chain := if d.state = .search then none else d.chain
  let f := a.frame chain
  let jump := chain.any fun c => f.sequence != (c.sequence + 1) % 16
  let d := { d with
    mode := .expect, chain := some f.carry
    counters := { d.counters with good := count16 d.counters.good, ignored := add16 d.counters.ignored a.ignoredWords
                                  jumps := if jump then count16 d.counters.jumps else d.counters.jumps } }
  match d.state with
  | .locked | .hold =>
    if d.header.map (·.rate) = some f.header.rate then
      { d with state := .locked, bad := 0, ready := some f
               counters := if d.ready.isSome then { d.counters with slips := count16 d.counters.slips } else d.counters }
    else
      { d with state := .confirm, confirm := some f, ready := none, playing := none, clock := false, playPos := 0, header := none,
               metadata := none, bad := 0 }
  | _ => { d with state := .confirm, confirm := some f }

/-- The sync word at the expected position in CONFIRM (R53). -/
def Decoder.lock (d : Decoder) : Decoder :=
  match d.confirm with
  | none => d
  | some f =>
    { d with state := .locked, header := some f.header, confirm := none, playing := some f, metadata := some (f.metadata f.entryGain),
             clock := true, playPos := 0, bad := 0 }

/-- The word at the expected position (R53, R54). -/
def Decoder.takeExpected (d : Decoder) (w : TWord) : Decoder :=
  if TWord.isSync w then
    { (if d.state = .confirm then d.lock else d) with mode := .assemble .begin }
  else if d.state = .confirm then { d with state := .search, mode := .scan, confirm := none, chain := none }
  else d.reject .framing

/-- One transport word (R41). An IDLE decoder discards it. -/
def Decoder.take (d : Decoder) (w : TWord) : Decoder :=
  if d.state = .idle then d
  else
    match d.mode with
    | .scan => if TWord.isSync w then { d with mode := .candidate } else d
    | .candidate =>
      if TWord.candidateRight w then { d with mode := .assemble (Assembly.begin.takeFormat w) }
      else if TWord.isSync w then d else { d with mode := .scan }
    | .expect => d.takeExpected w
    | .assemble a =>
      match a.take w with
      | .more a' => { d with mode := .assemble a' }
      | .rejected c => d.reject c
      | .verified a' => d.verify a'

/-- Binding to a port (R51). -/
def Decoder.bind (d : Decoder) (p : PortId) : Decoder :=
  { d with state := .search, port := some p, mode := .scan, chain := none, lastCause := .none, counters := Decoder.reset.counters }

/-- Unbinding (R51): the counters and the last rejection cause are kept. -/
def Decoder.unbind (d : Decoder) : Decoder :=
  { Decoder.reset with counters := d.counters, lastCause := d.lastCause }

/-- A change report of the bound port (R57). -/
def Decoder.portReport (d : Decoder) (locked packed : Bool) : Decoder :=
  if locked && packed then d
  else
    match d.state with
    | .idle => d
    | .search => { d with mode := .scan }
    | _ => d.toSearch (!locked)

/-- The gain in force at the end of the span that ends (R50, R54): the exit gain of the frame played; a span of zeros keeps it. -/
def Decoder.endGain (d : Decoder) : Int :=
  match d.playing with
  | some f => f.exitGain
  | none => d.metadata.elim 0 (·.endGain)

/-- The play clock reaches the end of a span (R54, R55). -/
def Decoder.nextSpan (d : Decoder) : Decoder :=
  match d.ready with
  | some f =>
    { d with playing := some f, ready := none, playPos := 0, metadata := some (f.metadata d.endGain),
             header := d.header.map fun h => { h with map := f.header.map } }
  | none =>
    { d with playing := none, playPos := 0, metadata := d.metadata.map fun m => { m with endGain := d.endGain }
             counters := if d.state = .locked then { d.counters with slips := count16 d.counters.slips } else d.counters }

/-- The levels a FORMAT notice watches differ (R61). -/
def levelsDiffer (a b : Option Metadata) : Bool :=
  a.map (fun m => (m.level, m.centreFold, m.surroundFold)) != b.map (fun m => (m.level, m.centreFold, m.surroundFold))

/-- The fold levels differ (R91, R95). -/
def foldsDiffer (a b : Option Metadata) : Bool :=
  a.map (fun m => (m.centreFold, m.surroundFold)) != b.map (fun m => (m.centreFold, m.surroundFold))

/-- The program gain at a sample position, with dynamic gain ON or OFF (R49). -/
def Decoder.programGain (d : Decoder) (dynamic : Bool) (pos : Nat) : Int :=
  match d.metadata with
  | none => 0
  | some m =>
    m.level + (if dynamic then (match d.playing with | some f => gainAt f.entryGain f.points pos | none => m.endGain) else 0)

/-- The samples of a sample position, in map order (R58); in a span of zeros every sample is 0. -/
def Decoder.samplesAt (d : Decoder) (pos : Nat) : List Int :=
  match d.playing with
  | some f => f.samples.map fun b => b.getD pos 0
  | none => []

end Sys2Proof.Machine
end

