-- ==== Sys2Proof/Machine/LinkQueue.lean ====
section
/-! DEFINITION. The transaction queues of the amplifier link: requests, pending marks, promotion, putting back (R126). -/

namespace Sys2Proof.Machine

/-- The filled entry that holds an identity, when it is PRESENT. -/
def State.presentEntry (s : State) (id : Identity) : Option (EntryId × Entry) :=
  match s.entryOf id with
  | none => none
  | some k =>
    match s.entry k with
    | some e => if e.presence = .present then some (k, e) else none
    | none => none

/-- Same module and kind (R126). -/
def Txn.sameAs (a b : Txn) : Bool := a.identity == b.identity && a.kind == b.kind

/-- A transaction of that module and kind is waiting, in a queue or as a pending mark (R126). -/
def Link.waits (l : Link) (t : Txn) : Bool := l.urgent.any t.sameAs || l.ordinary.any t.sameAs || l.marks.any t.sameAs

/-- The payload of the waiting transaction is replaced, and its place kept (R126). -/
def Link.replace (l : Link) (t : Txn) : Link :=
  let f := fun (x : Txn) => if t.sameAs x then t else x
  { l with urgent := l.urgent.map f, ordinary := l.ordinary.map f, marks := l.marks.map f }

/-- A transaction that is not waiting yet joins a tail: the urgent queue for WRITE_MUTE, the ordinary queue while it has
room, else a pending mark (R126). -/
def Link.join (l : Link) (t : Txn) : Link :=
  if t.kind = .writeMute then { l with urgent := l.urgent ++ [t] }
  else if l.ordinary.length < Config.ordinaryPlaces then { l with ordinary := l.ordinary ++ [t] }
  else { l with marks := l.marks ++ [t] }

/-- A transaction request (R126): discarded for a module no PRESENT entry holds, merged with one that waits, else queued. -/
def State.request (s : State) (id : Identity) (kind : TxnKind) (payload : Byte) : State :=
  let t : Txn := { identity := id, kind := kind, payload := payload }
  match s.presentEntry id with
  | none => s
  | some _ => s.setLink (if s.link.waits t then s.link.replace t else s.link.join t)

/-- The order of kinds in the promotion of marks of one module (R126). -/
def TxnKind.promotionOrder : TxnKind → Nat
  | .clearFault => 0
  | .writeEnable => 1
  | .readDesc => 2
  | .readStatus => 3
  | .writeMute => 4

/-- What a mark is chosen by: the address of its module, then its kind (R126). -/
def State.markKey (s : State) (t : Txn) : Nat :=
  ((s.presentEntry t.identity).elim 7 fun x => x.2.address) * 8 + t.kind.promotionOrder

/-- The mark to be promoted. -/
def State.bestMark (s : State) : List Txn → Option Txn
  | [] => none
  | t :: ts =>
    match s.bestMark ts with
    | none => some t
    | some b => if s.markKey t ≤ s.markKey b then some t else some b

/-- A free ordinary place promotes one pending mark to the tail of the queue (R126). -/
def State.promote (s : State) : State :=
  if s.link.ordinary.length < Config.ordinaryPlaces then
    match s.bestMark s.link.marks with
    | none => s
    | some t => s.setLink { s.link with ordinary := s.link.ordinary ++ [t], marks := s.link.marks.filter fun x => !t.sameAs x }
  else s

/-- Promotion for each of `n` places that became free. -/
def State.promoteN : Nat → State → State
  | 0, s => s
  | n + 1, s => State.promoteN n s.promote

/-- A failed transaction is put back (R126): dropped when a newer one of its module and kind waits, else it joins the tail. R126 says so of
ordinary transactions; a WRITE_MUTE is treated alike and joins the tail of the urgent queue (DESIGN CHOICE, log 41). -/
def Link.putBack (l : Link) (t : Txn) : Link := if l.waits t then l else l.join t

/-- Every waiting transaction and mark of a module is discarded (R130). -/
def Link.discard (l : Link) (id : Identity) : Link :=
  { l with urgent := l.urgent.filter fun t => t.identity != id
           ordinary := l.ordinary.filter fun t => t.identity != id
           marks := l.marks.filter fun t => t.identity != id }

/-- A mask of channels: bit k − 1 stands for channel k, 1 to 8 (R134). -/
def channelMask (channels : List Nat) : Byte := channels.foldl (fun m k => if k = 0 then m else m ||| (1#8 <<< (k - 1))) 0

/-- Channel `k` is in a mask. -/
def inMask (m : Byte) (k : Nat) : Bool := m.getLsbD (k - 1)

end Sys2Proof.Machine
end

