-- ==== Sys2Proof/Machine/Matrix.lean ====
section
/-! DEFINITION. The render matrix: the default derivation in its four steps and the choice of a custom matrix
(R88 to R93, R101). -/

namespace Sys2Proof.Machine

/-- The size of a role in a layout. -/
def Layout.size (l : Layout) (r : Role) : Size := (l : Vector Size 12)[r]

/-- A role is present when its size is not ABSENT (R85). -/
def Layout.present (l : Layout) (r : Role) : Bool := Layout.size l r != .absent

/-- Unity in Q2.14. -/
def unity : Int := 16384

/-- The hop table of R90: where an absent program role goes, with the hop's coefficient. FL and FR have no hop, since
every layout has them. -/
def hops (centre surround : Int) : Role → List (Role × Int)
  | 2 => [(Role.FL, centre), (Role.FR, centre)]
  | 3 => [(Role.FL, 11585), (Role.FR, 11585)]
  | 4 => [(Role.FL, surround)]
  | 5 => [(Role.FR, surround)]
  | 6 => [(Role.SL, unity)]
  | 7 => [(Role.SR, unity)]
  | 8 => [(Role.FL, 11585)]
  | 9 => [(Role.FR, 11585)]
  | 10 => [(Role.SL, 11585)]
  | 11 => [(Role.SR, 11585)]
  | _ => []

/-- The product of the coefficient carried and that of the next hop (R90). -/
def hopProduct (a b : Int) : Int := (a * b + 8192) / 16384

/-- The fold chain of an absent role: the roles its branches end at, with the coefficients carried (R90). Every chain
ends within three hops, which the first argument counts. -/
def foldChain (layout : Layout) (centre surround : Int) : Nat → Role → Option Int → List (Role × Int)
  | 0, _, _ => []
  | n + 1, r, carried =>
    (hops centre surround r).flatMap fun (t, b) =>
      let c := carried.elim b (hopProduct · b)
      if layout.present t then [(t, c)] else foldChain layout centre surround n t (some c)

/-- Steps 1 and 2 for row `j` and a program channel of role `r` (R89, R90). -/
def routed (layout : Layout) (centre surround : Int) (j r : Role) : Int :=
  if layout.present r then (if r = j then unity else 0)
  else ((foldChain layout centre surround 3 r none).lookup j).getD 0

/-- The table of R92: row, entry in the FL column, entry in the FR column. -/
def upmixEntry : Role → Option (Int × Int)
  | 2 => some (5793, 5793)
  | 4 => some (8192, 0)
  | 5 => some (0, 8192)
  | 6 => some (5793, 0)
  | 7 => some (0, 5793)
  | _ => none

/-- The program map consists of exactly FL and FR, in either order (R92). -/
def isStereo (map : List Role) : Bool := map == [Role.FL, Role.FR] || map == [Role.FR, Role.FL]

/-- Steps 1 to 3 for row `j` and a program channel of role `r` (R92). -/
def upmixed (layout : Layout) (centre surround : Int) (upmix : Bool) (map : List Role) (j r : Role) : Int :=
  match (if upmix && isStereo map then upmixEntry j else none) with
  | some (l, m) => if r = Role.FL then l else m
  | none => routed layout centre surround j r

/-- What step 4 adds to the LFE row for a program channel of role `r`: half of each positive entry of the rows of SMALL
roles other than LFE (R93). -/
def bassRedirect (layout : Layout) (entry : Role → Role → Int) (r : Role) : Int :=
  (allRoles.filter fun j => j != Role.LFE && layout.size j == .small).foldl
    (fun n j => if 0 < entry j r then n + entry j r / 2 else n) 0

/-- The default matrix (R89 to R93): one row for each present role, one column for each program channel. -/
def defaultMatrix (layout : Layout) (centre surround : Int) (upmix : Bool) (map : List Role) : List MatrixRow :=
  let entry := upmixed layout centre surround upmix map
  (allRoles.filter layout.present).map fun j =>
    { role := j
      coefs := map.map fun r =>
        if j = Role.LFE then min 32767 (entry j r + bassRedirect layout entry r) else entry j r }

/-- The matrix of a zone under R88: the stored custom rows whose role the layout has (R101) when the mode is CUSTOM and
the stored map is the program's, else the default derivation. The fold levels are those of R91. -/
def deriveMatrix (z : Zone) (map : List Role) (centreFold surroundFold : Int) : Matrix :=
  let plain : Matrix :=
    { rows := defaultMatrix z.layout (levelCoef (-centreFold).toNat) (levelCoef (-surroundFold).toNat) z.upmix map
      custom := false }
  match z.matrixMode, z.store with
  | .custom, some st => if st.map = map then { rows := st.rows.filter fun r => z.layout.present r.role, custom := true } else plain
  | _, _ => plain

/-- The coefficients of the row of role `j`; a role without a row takes none, so acc is 0 (R69). -/
def Matrix.row (m : Matrix) (j : Role) : List Int := ((m.rows.find? fun r => r.role == j).map (·.coefs)).getD []

end Sys2Proof.Machine
end

