-- ==== Sys2Proof/Machine/Slots.lean ====
section
/-! DEFINITION. The slot stage: destinations, slot states and their effects, lanes, the enable mask (R103 to R107), and
what a slot does when its zone starts (R20, R75, R76, R111). -/

namespace Sys2Proof.Machine

/-- Why a destination is missing (6.2, R116). -/
inductive Missing where
  | notInTable | absent | beyondCount
  deriving DecidableEq, Repr

/-- A destination is missing: no entry carries its identity, the entry is ABSENT, or the channel is beyond its count.
A line output is never missing (6.2). Where the entry is ABSENT and the channel beyond its count as well, the cause SLOT.QUERY reports is ABSENT:
R116 lists the causes without a priority (DESIGN CHOICE, log 64). -/
def State.missing (s : State) : Destination → Option Missing
  | .line _ => none
  | .amp id ch =>
    match s.entryOf id with
    | none => some .notInTable
    | some k =>
      match s.entry k with
      | none => some .notInTable
      | some e =>
        if e.presence = .absent then some .absent
        else if e.faults.length < ch then some .beyondCount else none

/-- The protection record of an amplifier channel, with its module (R138). -/
def State.protRecord (s : State) (id : Identity) (ch : Nat) : Option (ProtModule × ProtRecord) :=
  match s.entryOf id with
  | none => none
  | some k =>
    match s.protModule k with
    | none => none
    | some m => if ch = 0 then none else (m.records[ch - 1]?).map fun r => (m, r)

/-- The effective reduction of a channel: its reduction plus 12 under the supply flag, capped at 36 (R139). -/
def effectiveReduction (supplyLow : Bool) (r : ProtRecord) : Nat := min 36 (r.reduction + if supplyLow then 12 else 0)

/-- The protection condition of a destination as the slot takes it: muted, and the effective reduction. A line output, or
a channel without a record, is not muted and has reduction 0 (R102, R109). -/
def State.protOf (s : State) : Destination → Bool × Nat
  | .line _ => (false, 0)
  | .amp id ch =>
    match s.protRecord id ch with
    | none => (false, 0)
    | some (m, r) => (r.muted, effectiveReduction m.supplyLow r)

/-- The state of an assigned slot under the five checks of R103, given its protection reduction. -/
def State.slotStateFor (s : State) (a : Assignment) (reduction : Nat) : SlotState :=
  if (s.missing a.dest).isSome then .silent
  else if (s.protOf a.dest).1 then .shut
  else if !(s.zone a.zone).runsStages then .silent
  else if 0 < reduction then .limited
  else .active

/-- A slot that is SILENT or SHUT has its ramp level and target at 0 and sends 0 (R104). -/
def Slot.enter (x : Slot) (st : SlotState) : Slot :=
  match st with
  | .silent | .shut => { x with state := st, g := 0, target := 0, word := 0 }
  | _ => { x with state := st }

/-- The slot stage decides the state of a slot again (R103, R104). -/
def State.redecide (s : State) (i : SlotId) : State :=
  match (s.slot i).assigned with
  | none => s
  | some a =>
    let st := s.slotStateFor a (s.slot i).reduction
    if st = (s.slot i).state then s else s.updSlot i fun x => x.enter st

/-- Several slots decided again. -/
def State.redecideAll (s : State) (is : List SlotId) : State := is.foldl State.redecide s

/-- The slots whose destination is a channel of a module. -/
def State.slotsOn (s : State) (id : Identity) : List SlotId :=
  allSlots.filter fun i => (s.slot i).assigned.any fun a => match a.dest with | .amp id' _ => id' == id | .line _ => false

/-- The slot whose destination is a channel, if there is one. -/
def State.slotAt (s : State) (d : Destination) : Option SlotId :=
  allSlots.find? fun i => (s.slot i).assigned.any fun a => a.dest == d

/-- The protection unit's report of one channel reaches the slot it feeds: the slot takes the effective reduction, and its state
is decided again (R146). -/
def State.protReport (s : State) (id : Identity) (ch : Nat) : State :=
  match s.slotAt (.amp id ch) with
  | none => s
  | some i => (s.setSlot i { s.slot i with reduction := (s.protOf (.amp id ch)).2 }).redecide i

/-! ## Lanes (R105, R106) -/

/-- A lane: the amplifier lane of a module, or one of the three line lanes L0/L1, L2/L3, L4/L5. -/
inductive Lane where
  | amp (identity : Identity)
  | line (pair : Fin 3)
  deriving DecidableEq, Repr

/-- The lane of a destination (R105). -/
def Destination.lane : Destination → Lane
  | .amp id _ => .amp id
  | .line l => .line ⟨l.val / 2, by omega⟩

/-- The owner of a lane: the zone of the slots on it (R105). -/
def State.laneOwner (s : State) (l : Lane) : Option ZoneId :=
  (allSlots.findSome? fun i => (s.slot i).assigned.bind fun a => if a.dest.lane = l then some a.zone else none)

/-- The rate code of a lane: 2 until one is written (R106). -/
def State.laneRate (s : State) : Lane → RateCode
  | .amp id => (s.ampRates.lookup id).getD 2
  | .line p => s.lineRates[p]

/-- An amplifier lane's rate code in the list of those that are not 2, identities rising. -/
def setAmpRate (id : Identity) (r : RateCode) : List (Identity × RateCode) → List (Identity × RateCode)
  | [] => if r = 2 then [] else [(id, r)]
  | (x, v) :: rest =>
    if x = id then (if r = 2 then rest else (id, r) :: rest)
    else if id.toNat < x.toNat then (if r = 2 then (x, v) :: rest else (id, r) :: (x, v) :: rest)
    else (x, v) :: setAmpRate id r rest

/-- Writes a lane's rate code (R106). -/
def State.setLaneRate (s : State) (l : Lane) (r : RateCode) : State :=
  match l with
  | .amp id => { s with ampRates := setAmpRate id r s.ampRates }
  | .line p => { s with lineRates := s.lineRates.set p r }

/-- The lanes on which a zone's slots lie take its rate (R106). -/
def State.setLaneRates (s : State) (z : ZoneId) (r : RateCode) : State :=
  (s.slotsOf z).foldl (fun s i => match (s.slot i).assigned with | some a => s.setLaneRate a.dest.lane r | none => s) s

/-- The word the position of a destination carries: that of its slot, or 0 where there is none (R106). -/
def State.positionWord (s : State) (d : Destination) : Int := (s.slotAt d).elim 0 fun i => (s.slot i).word

/-- The words a lane sends in a sample period, one for each position it carries (R106): for an amplifier lane channels 1 to the module's
count, and nothing while the module is not PRESENT; for a line lane its two outputs. -/
def State.laneWords (s : State) : Lane → List Int
  | .amp id =>
    match s.presentEntry id with
    | none => []
    | some (_, e) => (List.range' 1 e.faults.length).map fun ch => s.positionWord (.amp id ch)
  | .line p => [s.positionWord (.line ⟨2 * p.val, by omega⟩), s.positionWord (.line ⟨2 * p.val + 1, by omega⟩)]

/-! ## Delay memory (R115) -/

/-- A delay line of `d` words as it stands in memory: what entered since it was filled with zeros, newest first, then zeros. -/
def lineWords (d : Nat) (line : List Int) : List Int := (line ++ List.replicate d 0).take d

/-- What stands in the lip-sync pool from its first word on: the program delay lines of the zones, one allocation after the other (R115). -/
def State.poolContents (s : State) : List Int := allZones.flatMap fun z => (s.zone z).lines.flatMap (lineWords (s.zone z).delay)

/-- Word `a` of the delay memory (R115): below 89,600 the speaker regions, region k belonging to slot k, whose line uses its first words; from
there on the lip-sync pool; beyond 262,143 no word. The order of the lines within a region and within the pool, and 0 in the words in no
use, cannot be seen from outside (DESIGN CHOICE, log 43). -/
def State.delayWord (s : State) (a : Nat) : Option Int :=
  if Config.delayWords ≤ a then none
  else if a < Config.poolBase then
    (toFin? 16 (a / Config.regionWords)).map fun i => (lineWords (s.slot i).delay (s.slot i).line).getD (a % Config.regionWords) 0
  else some (s.poolContents.getD (a - Config.poolBase) 0)

/-! ## Enable mask (R107) -/

/-- The channels of a module that are the destination of an assigned slot, those beyond its channel count too (R107; DESIGN CHOICE,
log 48). -/
def State.enableMask (s : State) (id : Identity) : Byte :=
  channelMask (allSlots.filterMap fun i =>
    (s.slot i).assigned.bind fun a => match a.dest with | .amp id' ch => if id' = id then some ch else none | .line _ => none)

/-- A WRITE_ENABLE request with the module's enable mask; a module that is not PRESENT gets none (R107, R126). -/
def State.requestEnable (s : State) (id : Identity) : State := s.request id .writeEnable (s.enableMask id)

/-! ## Crossover sets, speaker delays and starting (R73, R75, R76, R111, R20) -/

/-- The set a slot's section uses, from its role's size in the layout in force (R73). A slot of role LFE uses the low-pass set in a layout without
an LFE too, where the first and the third line of the table of R73 both apply (DESIGN CHOICE, log 60). -/
def xoverUse (l : Layout) (r : Role) : XoverUse :=
  if r = Role.LFE then .low else if l.size r = .small then .high else .bypass

/-- The four state values of a slot's section at zero (R75). -/
def Slot.zeroXover (x : Slot) : Slot := { x with u1 := 0, u2 := 0, y1 := 0, y2 := 0 }

/-- D_spk computed from the distance and the rate; a different one fills the line with zeros (R111, R76). -/
def Slot.computeDelay (x : Slot) (r : RateCode) : Slot :=
  let d := speakerDelay x.distance (Config.rateHz r)
  { x with delay := d, line := if d = x.delay then x.line else [], distanceDue := false }

/-- A slot when its zone enters RUNNING: crossover state and delay line zeroed, ramp at 0, trim, limit and set in force
(R20, R63, R75, R76, R79). Its speaker delay is computed on an entry from ACQUIRING (R111). -/
def Slot.start (x : Slot) (layout : Layout) (role : Role) (r : RateCode) (fromAcquiring : Bool) : Slot :=
  let x := if fromAcquiring then x.computeDelay r else x
  { x.zeroXover with line := [], g := 0, target := 0, activeTrim := x.trim, activeLimit := x.limit,
                     activeSet := xoverUse layout role, distanceDue := false }

end Sys2Proof.Machine
end

