-- ==== Sys2Proof/Machine/Zones.lean ====
section
/-! DEFINITION. The zone controller: the acquisition test, entering and leaving RUNNING, HELD, the decoder wait list and
its handover, what the reports of a port and of a decoder do to a zone, the interruption stack (R18 to R38), with the
lip-sync recomputation, the derivation and the start of a block they call for (R63 to R67, R75, R78, R95). -/

namespace Sys2Proof.Machine

/-! ## Lip-sync (R65, R66) -/

/-- The pool words not allocated to the two other zones (R66). -/
def State.poolAvail (s : State) (z : ZoneId) : Nat :=
  Config.poolWords - ((allZones.filter (· != z)).map fun y => (s.zone y).allocation).sum

/-- What the pool grants for `n` program channels and a requested delay: D_ls, and whether it was clamped (R66). -/
def grantDelay (avail n req : Nat) : Nat × Bool := if n * req ≤ avail then (req, false) else (avail / n, true)

/-- A recomputation of a zone's program delay and allocation; `fresh` when its lines are new (R65, R66). -/
def State.recompute (s : State) (z : ZoneId) (fresh : Bool) : State :=
  match (s.zone z).source, (s.zone z).rate, (s.zone z).map with
  | some e, some r, some map =>
    let g := grantDelay (s.poolAvail z) map.length
      (requestedDelay (s.zone z).lipsync (s.source e).offset (Config.rateHz r))
    s.updZone z fun x =>
      { x with delay := g.1, allocation := map.length * g.1, delayClamped := x.delayClamped || g.2, lipsyncDue := false,
               lines := if fresh || g.1 != x.delay then List.replicate map.length [] else x.lines }
  | _, _, _ => s

/-! ## The matrix in force (R91, R95) -/

/-- The centre and surround fold levels a zone's derivation uses (R91). -/
def State.foldLevels (s : State) (z : ZoneId) : Int × Int :=
  match (s.zone z).decoder with
  | none => (-6, -6)
  | some d => (s.decoder d).metadata.elim (-6, -6) fun m => (m.centreFold, m.surroundFold)

/-- The render engine derives a zone's matrix (R95). -/
def State.derive (s : State) (z : ZoneId) : State :=
  match (s.zone z).map with
  | none => s
  | some map =>
    s.updZone z fun x =>
      { x with matrix := some (deriveMatrix x map (s.foldLevels z).1 (s.foldLevels z).2), stale := false, deriveDue := false }

/-! ## The start of a block (R63, R75, R78) -/

/-- The input trim of a zone's selected source. -/
def State.sourceTrim (s : State) (z : ZoneId) : Int := (s.zone z).source.elim 0 fun e => (s.source e).trim

/-- The parameters a zone reads for a block (R63). -/
def Zone.capture (x : Zone) (trim : Int) : Zone :=
  { x with active := { volume := x.volume, dynamicGain := x.dynamicGain, sourceTrim := trim, layout := x.layout, high := x.high, low := x.low } }

/-- The ramp target R78 gives. -/
def rampTarget (z : Zone) (x : Slot) : Nat :=
  if z.state = .running ∧ z.mute = false ∧ (x.state = .active ∨ x.state = .limited) then 32 else 0

/-- A slot at a block boundary of its RUNNING zone: it takes its trim, limit and set; its crossover state is zeroed at the first block after
an entry to RUNNING, when its set changes, and when a new set applies to it (R63, R75); its ramp target is set (R78). -/
def Slot.atBoundary (x : Slot) (z : Zone) (role : Role) : Slot :=
  let u := xoverUse z.layout role
  let zero := z.blockPos.isNone || u != x.activeSet || (u == .high && z.highDue) || (u == .low && z.lowDue)
  { (if zero then x.zeroXover else x) with
    activeTrim := x.trim, activeLimit := x.limit, activeSet := u, target := rampTarget z x }

/-- The slots of a zone changed each by its role. -/
def State.mapSlots (s : State) (z : ZoneId) (f : Role → Slot → Slot) : State :=
  (s.slotsOf z).foldl (fun s i => match (s.slot i).assigned with | some a => s.setSlot i (f a.role (s.slot i)) | none => s) s

/-- The speaker delays of a zone's slots whose distances await a computation (R111). -/
def State.dueDistances (s : State) (z : ZoneId) : State :=
  match (s.zone z).rate with
  | none => s
  | some r => s.mapSlots z fun _ x => if x.distanceDue then x.computeDelay r else x

/-- A block of a RUNNING zone begins: what awaited the boundary takes effect (R63, R67, R95, R111), ramp targets are set. -/
def State.beginBlock (s : State) (z : ZoneId) : State :=
  let s := if (s.zone z).lipsyncDue then s.recompute z false else s
  let s := s.dueDistances z
  let s := if (s.zone z).deriveDue then s.derive z else s
  let s := s.mapSlots z fun role x => x.atBoundary (s.zone z) role
  s.updZone z fun x => { x.capture (s.sourceTrim z) with blockPos := some 0, highDue := false, lowDue := false }

/-- A block of a zone that is ramping out begins: every ramp target is 0 (R78), and the slot limits are taken (R63). With sums of 0 the other
parameters of the level stage give 0 whatever they are, and the crossover sets wait for the next entry to RUNNING (R79, R96). -/
def State.beginRampBlock (s : State) (z : ZoneId) : State :=
  (s.mapSlots z fun _ x => { x with target := 0, activeLimit := x.limit }).updZone z fun x => { x with blockPos := some 0 }

/-! ## Entering RUNNING (R20) and HELD (R21) -/

/-- The sample position of the span a zone joins its decoder at (R63); a zone playing PCM has none. -/
def State.joinPos (s : State) (z : ZoneId) : Nat := (s.zone z).decoder.elim 0 fun d => (s.decoder d).playPos

/-- A zone enters RUNNING (R20): from ACQUIRING with a fresh delay and matrix, or from HELD with those it kept. Its slots start
afresh (R75, R76, R79), the lanes take its rate (R106), the slot states are decided again (R103), and its first block begins, at once
for a PCM zone or at a span position that is a multiple of 32, else at the next such position (R63). A return from HELD with the same map
and no stale mark keeps the matrix, whatever fold levels the first frame after it brings (DESIGN CHOICE, log 47). A zone that joins its span
between two block positions forms acc with the matrix derived here, and feeds its delay lines with it, from its entry on and not only from its
first block; the slots output zero until then (DESIGN CHOICE, log 59). -/
def State.enterRunning (s : State) (z : ZoneId) (rate : RateCode) (map : List Role) (fromAcquiring : Bool) : State :=
  let mapChanged := (s.zone z).map != some map
  let s := s.updZone z fun x =>
    { x.capture (s.sourceTrim z) with
      state := .running, reason := none, rate := some rate, map := some map, hold := none, rampOut := false,
      blockPos := none, spanPos := s.joinPos z, lipsyncDue := false, highDue := false, lowDue := false }
  let s := s.markZone z
  let s := if fromAcquiring then s.recompute z true
    else s.updZone z fun x => { x with lines := List.replicate map.length [] }
  let s := if fromAcquiring || mapChanged || (s.zone z).stale then s.derive z else s
  let s := s.mapSlots z fun role x => x.start (s.zone z).layout role rate fromAcquiring
  let s := s.setLaneRates z rate
  let s := s.redecideAll (s.slotsOf z)
  if (s.zone z).spanPos % Config.blockLength = 0 ∧ (s.zone z).spanPos < Config.spanLength then s.beginBlock z else s

/-- A RUNNING zone enters HELD: the hold timer starts, the slots ramp out; a recomputation that awaited a boundary is made now, and an
awaited derivation leaves the matrix stale (R21, R67, R95). The distances that awaited the boundary are computed now with the rate the zone
keeps: those of a closed group by R193, those of an ungrouped SLOT.DISTANCE, whose departure no rule names, as well (DESIGN CHOICE,
log 66). -/
def State.enterHeld (s : State) (z : ZoneId) : State :=
  let s := s.updZone z fun x =>
    { x with state := .held, hold := some s.now, rampOut := true, stale := x.stale || x.deriveDue, deriveDue := false }
  let s := if (s.zone z).lipsyncDue then s.recompute z false else s
  s.dueDistances z

/-! ## Leaving a program (R23), the wait list (R26 to R28) -/

/-- A zone's decoder field becomes none, and a decoder without users is given up by `free` (R51), also while another zone without a decoder
has its source on the port (DESIGN CHOICE, log 46). -/
def State.dropDecoder (free : DecoderId → State → State) (s : State) (z : ZoneId) : State :=
  match (s.zone z).decoder with
  | none => s
  | some d =>
    let s := s.updZone z fun x => { x with decoder := none }
    if (s.users d).isEmpty then free d s else s

/-- A zone takes a reason, and leaves the wait list unless it waits for a decoder (R19, R28). -/
def State.await (s : State) (z : ZoneId) (r : Reason) : State :=
  let s := if r = .waitDecoder then s else { s with waitList := s.waitList.filter (· != z) }
  s.updZone z fun x => { x with reason := some r }

/-- The unbound decoder with the lower number (R26). -/
def State.freeDecoder (s : State) : Option DecoderId := allDecoders.find? fun d => (s.decoder d).port.isNone

/-- A zone without a decoder obtains one for port `p`, or joins the tail of the wait list (R26). -/
def State.obtain (s : State) (z : ZoneId) (p : PortId) : State :=
  if (s.zone z).decoder.isSome then s
  else
    match s.decoderOn p with
    | some d => s.updZone z fun x => { x with decoder := some d }
    | none =>
      match s.freeDecoder with
      | some d => (s.updDecoder d (·.bind p)).updZone z fun x => { x with decoder := some d }
      | none => if z ∈ s.waitList then s else { s with waitList := s.waitList ++ [z] }

/-- The acquisition test on a zone in ACQUIRING (R19); `free` gives up a decoder that has lost its last user. -/
def State.acquireWith (free : DecoderId → State → State) (s : State) (z : ZoneId) : State :=
  match (s.zone z).source with
  | none => s
  | some e =>
    let src := s.source e
    let port := s.port src.port
    if !src.enabled then s.await z .noSource
    else if port.state ≠ .locked then s.await z .noSignal
    else
      match port.content with
      | .undetermined => s.await z .undetermined
      | .unsupported => s.await z .unsupported
      | .pcm =>
        let s := { s with waitList := s.waitList.filter (· != z) }
        (s.dropDecoder free z).enterRunning z (port.rate.getD 2) src.map true
      | .packed =>
        let s := s.obtain z src.port
        match (s.zone z).decoder with
        | none => s.await z .waitDecoder
        | some d =>
          let s := { s with waitList := s.waitList.filter (· != z) }
          match (s.decoder d).state, (s.decoder d).header with
          | .locked, some h => s.enterRunning z h.rate h.map true
          | _, _ => s.await z .decoderSync

/-- The decoder is unbound, and handed to the head of the wait list and to every zone on the list whose source is on the same
port (R27, R51). A zone on the list is on a port that no decoder serves; no port is bound to two decoders (R27, R51). -/
def State.freeDecoderUp (d : DecoderId) (s : State) : State :=
  let s := s.updDecoder d (·.unbind)
  match s.waitList with
  | [] => s
  | h :: _ =>
    match s.portOf h with
    | none => s
    | some p =>
      if (s.decoderOn p).isSome then s
      else
      let takers := s.waitList.filter fun z => s.portOf z == some p
      let s := s.updDecoder d (·.bind p)
      let s := { s with waitList := s.waitList.filter fun z => s.portOf z != some p }
      let s := takers.foldl (fun s z => s.updZone z fun x => { x with decoder := some d }) s
      takers.foldl (State.acquireWith fun d s => s.updDecoder d (·.unbind)) s

/-- The acquisition test (R19). -/
def State.acquire (s : State) (z : ZoneId) : State := s.acquireWith State.freeDecoderUp z

/-- A zone leaves its program (R23); `leavesDecoder` when the cause is a source change, a power-off or a content change away from
PACKED. -/
def State.leaveProgram (s : State) (z : ZoneId) (leavesDecoder : Bool) : State :=
  let s := s.updZone z fun x =>
    { x with rampOut := x.rampOut || x.state == .running, hold := none, allocation := 0, delay := 0, lines := [],
             rate := none, map := none, reason := none, matrix := none, stale := false, deriveDue := false, lipsyncDue := false }
  let s := { s with waitList := s.waitList.filter (· != z) }
  if leavesDecoder then s.dropDecoder State.freeDecoderUp z else s

/-- A RUNNING or HELD zone enters ACQUIRING: it leaves its program (R21 to R23). -/
def State.becomeAcquiring (s : State) (z : ZoneId) (leavesDecoder : Bool) : State :=
  (s.leaveProgram z leavesDecoder).updZone z fun x => { x with state := .acquiring }

/-- A RUNNING or HELD zone goes to ACQUIRING, where the acquisition test runs at once (R21, R22). -/
def State.toAcquiring (s : State) (z : ZoneId) (leavesDecoder : Bool) : State := (s.becomeAcquiring z leavesDecoder).acquire z

/-- A RUNNING user whose decoder's current header `h` has taken another channel count goes through ACQUIRING, its decoder kept, and is RUNNING
again at once, with the rate and map of that header and a new allocation (R21, R55). R55 makes no difference between a decoder in LOCKED and one
in HOLD; that the user of one in HOLD does not meet check 8 of R19 on its way is DEDUCED from that (log 37). -/
def State.restartOn (s : State) (z : ZoneId) (h : Header) : State := (s.becomeAcquiring z false).enterRunning z h.rate h.map true

/-! ## Reports that reach a zone (R21, R22) -/

/-- A change report of the port a HELD zone's source is on (R22). -/
def State.heldPortReport (s : State) (z : ZoneId) (port : Port) : State :=
  let zn := s.zone z
  if port.state ≠ .locked then s
  else if zn.decoder.isSome then
    (match port.content with
     | .undetermined | .packed => s
     | .pcm | .unsupported => s.toAcquiring z true)
  else
    match port.content with
    | .pcm =>
      if port.rate = zn.rate then s.enterRunning z (zn.rate.getD 2) (zn.source.elim [] fun e => (s.source e).map) false
      else s.toAcquiring z true
    | .undetermined => if port.rate = zn.rate then s else s.toAcquiring z true
    | .packed | .unsupported => s.toAcquiring z true

/-- A change report of the port a RUNNING zone's source is on (R21). -/
def State.runningPortReport (s : State) (z : ZoneId) (port : Port) : State :=
  if port.state ≠ .locked then s.enterHeld z
  else
    let played : Content := if (s.zone z).decoder.isSome then .packed else .pcm
    if port.content = played then s else s.toAcquiring z (port.content != .packed)

/-- A change report of port `p` reaches a zone (R11, R19, R21, R22). -/
def State.zonePortReport (p : PortId) (s : State) (z : ZoneId) : State :=
  if s.portOf z ≠ some p then s
  else
    match (s.zone z).state with
    | .standby | .idle => s
    | .acquiring => s.acquire z
    | .running => s.runningPortReport z (s.port p)
    | .held => s.heldPortReport z (s.port p)

/-- A report of its decoder's state reaches a user (R19, R21, R22, R58). -/
def State.zoneDecoderReport (d : DecoderId) (s : State) (z : ZoneId) : State :=
  if (s.zone z).decoder ≠ some d then s
  else
    match (s.zone z).state with
    | .standby | .idle => s
    | .acquiring => s.acquire z
    | .running =>
      (match (s.decoder d).state with
       | .search => s.enterHeld z
       | .confirm => s.toAcquiring z false
       | _ => s)
    | .held =>
      match (s.decoder d).state, (s.decoder d).header with
      | .locked, some h =>
        if some h.rate = (s.zone z).rate ∧ some h.map.length = (s.zone z).map.map (·.length)
        then s.enterRunning z h.rate h.map false else s.toAcquiring z false
      | _, _ => s

/-- A decoder's state has changed: its users are told, in order of their numbers (R58, log 53), and an entry to LOCKED from CONFIRM
raises FORMAT (R61). -/
def State.decoderChanged (s : State) (d : DecoderId) (old : DecoderState) : State :=
  if (s.decoder d).state = old then s
  else
    let s := if old = .confirm ∧ (s.decoder d).state = .locked then s.markFormat d else s
    allZones.foldl (State.zoneDecoderReport d) s

/-- A change report of port `p` reaches the decoder bound to it (R57). -/
def State.decoderPortReport (s : State) (p : PortId) : State :=
  match s.decoderOn p with
  | none => s
  | some d =>
    let old := (s.decoder d).state
    let port := s.port p
    (s.updDecoder d fun x => x.portReport (port.state == .locked) (port.content == .packed)).decoderChanged d old

/-- A change of port `p` is reported: to the zones in order of their numbers (log 53), then to the decoder (R11, log 16). -/
def State.portChanged (s : State) (p : PortId) : State :=
  ((allZones.foldl (State.zonePortReport p) (s.markPort p))).decoderPortReport p

/-- Writes a port record; a change of its state, rate code or content kind is reported and noticed (R11, R12). -/
def State.updPort (s : State) (p : PortId) (f : Port → Port) : State :=
  let old := s.port p
  let new := f old
  let s := s.setPort p new
  if old.state = new.state ∧ old.rate = new.rate ∧ old.content = new.content then s else s.portChanged p

/-! ## Source, power and stack (R29 to R38) -/

/-- The new source of a powered zone, applied without a look at the stack (R30, R34, R35, R37). -/
def State.changeSource (s : State) (z : ZoneId) (src : Option SourceId) : State :=
  if (s.zone z).source = src then s
  else
    let s := s.leaveProgram z true
    let s := s.updZone z fun x => { x with source := src, state := if src.isNone then .idle else .acquiring }
    if src.isNone then s else s.acquire z

/-- A zone is powered on (R29). -/
def State.powerOn (s : State) (z : ZoneId) : State :=
  if (s.zone z).powered then s
  else if (s.zone z).source.isNone then s.updZone z fun x => { x with state := .idle }
  else (s.updZone z fun x => { x with state := .acquiring }).acquire z

/-- A zone is powered off (R29). -/
def State.powerOff (s : State) (z : ZoneId) : State :=
  if (s.zone z).powered then (s.leaveProgram z true).updZone z fun x => { x with state := .standby, stack := [] } else s

/-- The top entry of a stack, when its cause is ANNOUNCEMENT, is discarded (R30). -/
def discardAnnouncement : List StackEntry → List StackEntry
  | x :: rest => if x.cause = .announcement then rest else x :: rest
  | [] => []

/-- ZONE.SOURCE in a powered zone, or in STANDBY (R30). -/
def State.selectSource (s : State) (z : ZoneId) (src : Option SourceId) : State :=
  if (s.zone z).powered then
    (s.updZone z fun x => { x with stack := discardAnnouncement x.stack }).changeSource z src
  else s.updZone z fun x => { x with source := src }

/-- The zone's present context as a stack entry. -/
def Zone.context (x : Zone) (c : StackCause) : StackEntry := { source := x.source, volume := x.volume, mute := x.mute, cause := c }

/-- A volume clamped to −160..maximum. -/
def Zone.clampVolume (x : Zone) (v : Int) : Int := clamp (-160) x.maxVolume v

/-- The context is saved and a new one applied: volume, mute off, source (R34, R37). -/
def State.pushContext (s : State) (z : ZoneId) (c : StackCause) (src : Option SourceId) (volume : Int) : State :=
  (s.updZone z fun x => { x with stack := x.context c :: x.stack, volume := x.clampVolume volume, mute := false }).changeSource z src

/-- The top entry is removed and the context it holds restored (R35): the source first, then volume and mute. A zone that enters RUNNING on PCM
within the source change reads volume and mute for its first block as they stood before the restore (DESIGN CHOICE, log 38). -/
def State.popContext (s : State) (z : ZoneId) : State :=
  match (s.zone z).stack with
  | [] => s
  | t :: rest =>
    ((s.updZone z fun x => { x with stack := rest }).changeSource z t.source).updZone z fun x =>
      { x with volume := x.clampVolume t.volume, mute := t.mute }

/-- A zone follows an announcement start (R37). -/
def State.zoneFollows (s : State) (z : ZoneId) : Bool :=
  (s.zone z).powered && (s.zone z).policy == .follow && s.portOf z != some tunerPort

/-- An announcement start reaches a zone (R37). -/
def State.announceStart (s : State) (z : ZoneId) : State :=
  if s.zoneFollows z then
    if Config.stackPlaces ≤ (s.zone z).stack.length then s.updZone z fun x => { x with annMissed := true }
    else s.pushContext z .announcement (s.zone z).annSource (s.zone z).annVolume
  else s

/-- An ANNOUNCEMENT entry below the top is removed, and the entry directly above it takes its context (R38). -/
def inheritAnnouncement : List StackEntry → List StackEntry
  | a :: b :: rest =>
    if b.cause = .announcement then { a with source := b.source, volume := b.volume, mute := b.mute } :: rest
    else a :: inheritAnnouncement (b :: rest)
  | l => l

/-- An announcement end reaches a zone (R38). -/
def State.announceEnd (s : State) (z : ZoneId) : State :=
  match (s.zone z).stack with
  | [] => s
  | t :: _ =>
    if t.cause = .announcement then s.popContext z
    else s.updZone z fun x => { x with stack := inheritAnnouncement x.stack }

end Sys2Proof.Machine
end

