-- ==== Sys2Proof/Machine/Group.lean ====
section
/-! DEFINITION. Render changes: what each does when it is applied, in which zone state it takes effect when (R67, R83 to R87,
R94 to R101, R111 to R114), and the group that stages them (R191 to R194). -/

namespace Sys2Proof.Machine

/-- One change a render command makes (R191). -/
inductive RenderChange where
  | volume (z : ZoneId) (v : Int)
  | mute (z : ZoneId) (on : Bool)
  | lipsync (z : ZoneId) (ms : Nat)
  | dynamicGain (z : ZoneId) (on : Bool)
  | upmix (z : ZoneId) (on : Bool)
  | layout (z : ZoneId) (l : Layout)
  | high (z : ZoneId) (c : XoverSet)
  | low (z : ZoneId) (c : XoverSet)
  | load (z : ZoneId) (w : MatrixWrite)
  | mode (z : ZoneId) (m : MatrixMode)
  | distance (i : SlotId) (d : Nat)
  | trim (i : SlotId) (t : Int)
  | limit (i : SlotId) (l : Nat)
  deriving DecidableEq, Repr

/-! ## The custom matrix store (R99) -/

/-- A row replaces the stored row of its role, or is added (R99). -/
def addRow (rows : List MatrixRow) (r : MatrixRow) : List MatrixRow :=
  if rows.any (fun x => x.role == r.role) then rows.map fun x => if x.role = r.role then r else x else rows ++ [r]

/-- A MATRIX.LOAD writes the store (R99). -/
def writeStore (store : Option CustomMatrix) (w : MatrixWrite) : Option CustomMatrix :=
  if w.replaces then some { map := w.map, rows := w.rows }
  else store.map fun st => { st with rows := w.rows.foldl addRow st.rows }

/-! ## Applying (R193) -/

/-- The matrix inputs of a zone changed: a RUNNING zone derives at its next block boundary, a HELD zone's matrix is stale (R95). -/
def Zone.matrixChanged (x : Zone) : Zone :=
  match x.state with
  | .running => { x with deriveDue := true }
  | .held => { x with stale := true }
  | _ => x

/-- A lip-sync or an offset changed: recomputed at the next block boundary of a RUNNING zone, at once in a HELD zone (R67). -/
def State.lipsyncChanged (s : State) (z : ZoneId) : State :=
  match (s.zone z).state with
  | .running => s.updZone z fun x => { x with lipsyncDue := true }
  | .held => s.recompute z false
  | _ => s

/-- A slot's distance changed: D_spk computed at the next block boundary of a RUNNING zone, at once in a HELD zone (R111). -/
def State.distanceChanged (s : State) (i : SlotId) : State :=
  match (s.slot i).assigned with
  | none => s
  | some a =>
    match (s.zone a.zone).state, (s.zone a.zone).rate with
    | .running, _ => s.setSlot i { s.slot i with distanceDue := true }
    | .held, some r => s.setSlot i ((s.slot i).computeDelay r)
    | _, _ => s

/-- A change is written into its record and takes effect as its chapter gives. A volume is clamped, silently, to the maximum in
force (R31). -/
def State.applyChange (s : State) : RenderChange → State
  | .volume z v => s.updZone z fun x => { x with volume := x.clampVolume v }
  | .mute z on => s.updZone z fun x => { x with mute := on }
  | .lipsync z ms => (s.updZone z fun x => { x with lipsync := ms }).lipsyncChanged z
  | .dynamicGain z on => s.updZone z fun x => { x with dynamicGain := on }
  | .upmix z on => s.updZone z fun x => { x with upmix := on }.matrixChanged
  | .layout z l => s.updZone z fun x => { x with layout := l }.matrixChanged
  | .high z c => s.updZone z fun x => { x with high := c, highDue := x.highDue || x.state == .running }
  | .low z c => s.updZone z fun x => { x with low := c, lowDue := x.lowDue || x.state == .running }
  | .load z w => s.updZone z fun x => { x with store := writeStore x.store w }.matrixChanged
  | .mode z m => s.updZone z fun x => { x with matrixMode := m }.matrixChanged
  | .distance i d => (s.setSlot i { s.slot i with distance := d }).distanceChanged i
  | .trim i t => s.setSlot i { s.slot i with trim := t }
  | .limit i l => s.setSlot i { s.slot i with limit := l }

/-! ## Staging (R192) -/

def State.stageZone (s : State) (z : ZoneId) (f : ZoneStaged → ZoneStaged) : State :=
  s.setZone z { s.zone z with staged := f (s.zone z).staged }
def State.stageSlot (s : State) (i : SlotId) (f : SlotStaged → SlotStaged) : State :=
  s.setSlot i { s.slot i with staged := f (s.slot i).staged }

/-- A change is written into the pending record: it replaces a value staged for the same field; MATRIX.LOAD writes are kept in the
order taken (R192). -/
def State.stageChange (s : State) : RenderChange → State
  | .volume z v => s.stageZone z fun x => { x with volume := some v }
  | .mute z on => s.stageZone z fun x => { x with mute := some on }
  | .lipsync z ms => s.stageZone z fun x => { x with lipsync := some ms }
  | .dynamicGain z on => s.stageZone z fun x => { x with dynamicGain := some on }
  | .upmix z on => s.stageZone z fun x => { x with upmix := some on }
  | .layout z l => s.stageZone z fun x => { x with layout := some l }
  | .high z c => s.stageZone z fun x => { x with high := some c }
  | .low z c => s.stageZone z fun x => { x with low := some c }
  | .load z w => s.stageZone z fun x => { x with loads := x.loads ++ [w] }
  | .mode z m => s.stageZone z fun x => { x with mode := some m }
  | .distance i d => s.stageSlot i fun x => { x with distance := some d }
  | .trim i t => s.stageSlot i fun x => { x with trim := some t }
  | .limit i l => s.stageSlot i fun x => { x with limit := some l }

/-- What a zone's pending record holds, as changes. -/
def ZoneStaged.changes (z : ZoneId) (x : ZoneStaged) : List RenderChange :=
  (x.volume.map (RenderChange.volume z)).toList ++ (x.mute.map (RenderChange.mute z)).toList ++
  (x.lipsync.map (RenderChange.lipsync z)).toList ++ (x.dynamicGain.map (RenderChange.dynamicGain z)).toList ++
  (x.upmix.map (RenderChange.upmix z)).toList ++ (x.layout.map (RenderChange.layout z)).toList ++
  (x.high.map (RenderChange.high z)).toList ++ (x.low.map (RenderChange.low z)).toList ++
  x.loads.map (RenderChange.load z) ++ (x.mode.map (RenderChange.mode z)).toList

/-- What is staged for a slot, as changes. -/
def SlotStaged.changes (i : SlotId) (x : SlotStaged) : List RenderChange :=
  (x.distance.map (RenderChange.distance i)).toList ++ (x.trim.map (RenderChange.trim i)).toList ++
  (x.limit.map (RenderChange.limit i)).toList

/-- Everything staged, in one list. -/
def State.stagedChanges (s : State) : List RenderChange :=
  allZones.flatMap (fun z => (s.zone z).staged.changes z) ++ allSlots.flatMap (fun i => (s.slot i).staged.changes i)

/-- Every pending record emptied. -/
def State.emptyStaged (s : State) : State :=
  let s := allZones.foldl (fun s z => s.stageZone z fun _ => .empty) s
  allSlots.foldl (fun s i => s.stageSlot i fun _ => .empty) s

/-- The group closes and every pending record is applied and emptied (R193, log 5), the zones in order of their numbers (log 53). -/
def State.closeGroup (s : State) : State :=
  let changes := s.stagedChanges
  changes.foldl State.applyChange (s.emptyStaged.setControl { s.control with group := none })

/-- The zones whose pending records hold values, those of their slots included (R191). -/
def State.stagedZones (s : State) : List ZoneId :=
  allZones.filter fun z =>
    (s.zone z).staged != .empty || (s.slotsOf z).any fun i => (s.slot i).staged != .empty

/-- The group expires: its changes are discarded and GROUP is raised (R194). -/
def State.expireGroup (s : State) (g : OpenGroup) : State :=
  let c := s.control
  let s := (s.emptyStaged).setControl
    { c with group := none, groupsExpired := countUp 255 c.groupsExpired,
             commandsDiscarded := min 65535 (c.commandsDiscarded + g.count),
             zonesDiscarded := s.stagedZones.foldl (fun l z => insertAsc z.val l) c.zonesDiscarded }
  s.raise .group

/-- The group takes one more staged command, opening if it was closed (R192). -/
def State.countStaged (s : State) : State :=
  s.setControl { s.control with group := some (match s.control.group with
    | none => { count := 1, since := s.now }
    | some g => { g with count := g.count + 1 }) }

/-- An accepted render command (R192, R193): with CONTINUE set its change is staged; with CONTINUE clear it closes an open group, its own
change staged first, or applies alone. -/
def State.renderAccepted (s : State) (c : Command) (r : Result) (data : List Byte) (change : RenderChange) : State :=
  let s := s.reply c r data
  if c.continues then (s.stageChange change).countStaged
  else if s.control.group.isSome then (s.stageChange change).closeGroup
  else s.applyChange change

/-- A refused render command: with CONTINUE clear it still closes an open group (R193). -/
def State.renderRefused (s : State) (c : Command) (r : Result) : State :=
  let s := s.answer c r
  if !c.continues && s.control.group.isSome then s.closeGroup else s

end Sys2Proof.Machine
end

