-- ==== Sys2Proof/Machine/Protection.lean ====
section
/-! DEFINITION. The protection unit: what each kind of fault item does to a record, and the outward changes it makes once
for an event: the WRITE_MUTE request, the reports to the slots, the PROTECT set (R138 to R149, R151). -/

namespace Sys2Proof.Machine

/-- A new record (R138). -/
def ProtRecord.fresh : ProtRecord :=
  { state := .normal, cause := .none, reduction := 0, muted := false, count := 0, windowStart := 0, holdOff := none }

/-- The kinds of a fault report (R140), in the order of their codes 1..7 (R134). -/
inductive FaultKind where
  | tempWarn | tempShut | overcurrent | dcFault | supplyLow | supplyOk | clear
  deriving DecidableEq, Repr

/-- The kind a FAULT request's first payload byte names (R134). -/
def FaultKind.ofCode (b : Byte) : Option FaultKind :=
  match b.toNat with
  | 1 => some .tempWarn
  | 2 => some .tempShut
  | 3 => some .overcurrent
  | 4 => some .dcFault
  | 5 => some .supplyLow
  | 6 => some .supplyOk
  | 7 => some .clear
  | _ => none

/-- The channel kinds act on the masked channels; the supply kinds on the module (R140). -/
def FaultKind.onChannels : FaultKind → Bool
  | .supplyLow | .supplyOk => false
  | _ => true

/-- TEMP_WARN (R141). -/
def ProtRecord.tempWarn (r : ProtRecord) : ProtRecord :=
  match r.state with
  | .shut | .latched => r
  | .recovering =>
    { r with state := if r.muted then .shut else .warned, cause := .temp, reduction := min 24 (r.reduction + 12), holdOff := none }
  | .normal | .warned => { r with state := .warned, cause := .temp, reduction := min 24 (r.reduction + 12), holdOff := none }

/-- TEMP_SHUT (R142). -/
def ProtRecord.tempShut (r : ProtRecord) : ProtRecord :=
  match r.state with
  | .latched => r
  | .shut => { r with cause := .temp }
  | _ => { r with state := .shut, cause := .temp, muted := true, holdOff := none }

/-- DC_FAULT (R142). -/
def ProtRecord.dcFault (r : ProtRecord) : ProtRecord :=
  { r with state := .latched, cause := .dc, muted := true, holdOff := none }

/-- OVERCURRENT at time `t`: counted in its 60 s window, then shut, or latched at a count of 3 (R143). -/
def ProtRecord.overcurrent (t : Nat) (r : ProtRecord) : ProtRecord :=
  match r.state with
  | .latched => r
  | .shut => { r with cause := .current }
  | _ =>
    let new := r.count = 0 ∨ Config.overcurrentMs ≤ t - r.windowStart
    let n := if new then 1 else r.count + 1
    { r with state := if 3 ≤ n then .latched else .shut, cause := .current, muted := true, holdOff := none, count := n,
             windowStart := if new then t else r.windowStart }

/-- CLEAR at time `t` (R144). -/
def ProtRecord.clear (t : Nat) (r : ProtRecord) : ProtRecord :=
  match r.state with
  | .warned => { r with state := .recovering, muted := false, holdOff := some t }
  | .shut => { r with state := .recovering, muted := true, reduction := 0, holdOff := some t }
  | _ => r

/-- A channel item on one record (R140). -/
def ProtRecord.apply (t : Nat) (k : FaultKind) (r : ProtRecord) : ProtRecord :=
  match k with
  | .tempWarn => r.tempWarn
  | .tempShut => r.tempShut
  | .overcurrent => r.overcurrent t
  | .dcFault => r.dcFault
  | .clear => r.clear t
  | .supplyLow | .supplyOk => r

/-- The hold-off timer reaches 3 s (R145). -/
def ProtRecord.recover (r : ProtRecord) : ProtRecord :=
  { r with state := .normal, cause := .none, reduction := 0, muted := false, holdOff := none }

/-- The channel is lost with its module (R147). -/
def ProtRecord.lose (r : ProtRecord) : ProtRecord :=
  if r.state = .latched then r else { r with state := .shut, cause := .link, muted := true, holdOff := none }

/-- The channel's module has returned (R148, step 3). -/
def ProtRecord.return (t : Nat) (r : ProtRecord) : ProtRecord :=
  if r.state = .shut ∧ r.cause = .link then { r with state := .recovering, muted := true, reduction := 0, holdOff := some t } else r

/-- PROT.RESET of a LATCHED record (R149). -/
def ProtRecord.reset (present : Bool) (r : ProtRecord) : ProtRecord :=
  if present then { r with state := .normal, cause := .none, reduction := 0, muted := false, count := 0, holdOff := none }
  else { r with state := .shut, cause := .link, reduction := 0, muted := true, count := 0, holdOff := none }

/-- `f` on the records of the channels for which `p` holds; channel 1 stands first. -/
def mapChannels (p : Nat → Bool) (f : ProtRecord → ProtRecord) : Nat → List ProtRecord → List ProtRecord
  | _, [] => []
  | ch, r :: rs => (if p ch then f r else r) :: mapChannels p f (ch + 1) rs

/-- One item of a report on a module (R139, R140). -/
def ProtModule.applyItem (t : Nat) (k : FaultKind) (mask : Byte) (temp : Int) (m : ProtModule) : ProtModule :=
  match k with
  | .supplyLow => { m with supplyLow := true }
  | .supplyOk => { m with supplyLow := false }
  | .tempWarn | .tempShut => { m with records := mapChannels (inMask mask) (.apply t k) 1 m.records, temperature := some temp }
  | _ => { m with records := mapChannels (inMask mask) (.apply t k) 1 m.records }

/-- The muted channels of a module (R146). -/
def mutedMask (rs : List ProtRecord) : Byte :=
  channelMask ((List.range' 1 rs.length).filter fun ch => (rs[ch - 1]?).any (·.muted))

/-- What PROTECT notices of one channel: state, cause, reduction, muted, effective reduction, or the removal of its record;
the creation of a record adds nothing (R151). The records before and after the whole report are compared, as the outward changes are made
once for it (R140, log 51). -/
def channelNoticed (old new : ProtModule) (ch : Nat) : Bool :=
  match old.records[ch - 1]?, new.records[ch - 1]? with
  | some a, some b =>
    a.state != b.state || a.cause != b.cause || a.reduction != b.reduction || a.muted != b.muted ||
    effectiveReduction old.supplyLow a != effectiveReduction new.supplyLow b
  | some _, none => true
  | none, _ => false

/-- What the slot stage is told of one channel: a change of the muted field or of the effective reduction (R146). -/
def channelReported (old new : ProtModule) (ch : Nat) : Bool :=
  match old.records[ch - 1]?, new.records[ch - 1]? with
  | some a, some b => a.muted != b.muted || effectiveReduction old.supplyLow a != effectiveReduction new.supplyLow b
  | none, none => false
  | _, _ => true

/-- What asks for a WRITE_MUTE (R146): a channel enters SHUT or LATCHED, changes its muted field, or is removed muted. -/
def muteNeeded (old new : ProtModule) (ch : Nat) : Bool :=
  match old.records[ch - 1]?, new.records[ch - 1]? with
  | some a, some b => (a.state != b.state && (b.state == .shut || b.state == .latched)) || a.muted != b.muted
  | some a, none => a.muted
  | none, _ => false

/-- The urgent WRITE_MUTE with the module's full mute mask; it is the mask last requested (R146, R150). -/
def State.requestMute (s : State) (k : EntryId) (id : Identity) : State :=
  match s.protModule k with
  | none => s
  | some m =>
    (s.setProtModule k (some { m with muteMask := mutedMask m.records })).request id .writeMute (mutedMask m.records)

/-- The outward changes of an event that turned `old` into `new` on the module of entry `k`: the record is written, the
changed channels join the PROTECT set, the slots are told, and a WRITE_MUTE is requested when one is needed, or always when
`force` is set, while the module is PRESENT (R140, R146, R151). -/
def State.protCommit (s : State) (k : EntryId) (id : Identity) (old new : ProtModule) (force : Bool) : State :=
  let channels := List.range' 1 8
  let s := s.setProtModule k (some new)
  let s := channels.foldl (fun s ch => if channelNoticed old new ch then s.markProt id ch else s) s
  let s := channels.foldl (fun s ch => if channelReported old new ch then s.protReport id ch else s) s
  if (s.presentEntry id).isSome && (force || channels.any (muteNeeded old new)) then s.requestMute k id else s

/-- A fault report: its items in the order given, then the outward changes once (R140). -/
def State.faultReport (s : State) (k : EntryId) (id : Identity) (items : List (FaultKind × Byte)) (temp : Int) : State :=
  match s.protModule k with
  | none => s
  | some m => s.protCommit k id m (items.foldl (fun m i => m.applyItem s.now i.1 i.2 temp) m) false

/-- The module of entry `k` has become ABSENT (R147). -/
def State.protAbsent (s : State) (k : EntryId) (id : Identity) : State :=
  match s.protModule k with
  | none => s
  | some m => s.protCommit k id m { m with records := m.records.map .lose } false

/-- Records cut or filled up to a channel count (R138, R148 step 2). -/
def resizeRecords (n : Nat) (rs : List ProtRecord) : List ProtRecord :=
  rs.take n ++ List.replicate (n - rs.length) .fresh

/-- The module of entry `k` has become PRESENT with `n` channels (R148). -/
def State.protPresent (s : State) (k : EntryId) (id : Identity) (n : Nat) : State :=
  match s.protModule k with
  | none =>
    (s.setProtModule k (some { supplyLow := false, temperature := none, muteMask := 0, records := List.replicate n .fresh })).requestMute k id
  | some m =>
    s.protCommit k id m
      { m with supplyLow := false, records := (resizeRecords n m.records).map (.return s.now) } true

/-- The channel count of a PRESENT module has changed (R148, last paragraph but one). -/
def State.protCount (s : State) (k : EntryId) (id : Identity) (n : Nat) : State :=
  match s.protModule k with
  | none => s
  | some m => s.protCommit k id m { m with records := resizeRecords n m.records } false

/-- LINK.RESET removes every record: the set is emptied, the all-removed mark set and PROTECT raised (R138, R151). The temperature last reported
for a module goes with its records, so a module admitted again shows none until it reports one; no rule says whether it survives (DESIGN CHOICE,
log 65). -/
def State.protRemoveAll (s : State) : State :=
  if allEntries.any fun k => (s.protModule k).isSome then
    { s with prot := Vector.replicate 6 none, changedProt := [], allRemoved := true }.raise .protect
  else s

end Sys2Proof.Machine
end

