-- ==== Sys2Proof/Machine/LinkCtl.lean ====
section
/-! DEFINITION. The amplifier link controller: the arbiter, rounds of an enumeration and its end, a module becoming
PRESENT or ABSENT, line recovery, status and descriptor replies (R118 to R136). -/

namespace Sys2Proof.Machine

inductive LinkState where
  | held | idle | busy | enumerating
  deriving DecidableEq, Repr

/-- The link state, read from the exchange in flight (R118). A request window, and the exchange of a request taken in it, read BUSY, or
ENUMERATING while an enumeration is in flight, as R122 and R135 name a window between two rounds; R134 says BUSY of every such exchange (DESIGN
CHOICE, log 11). -/
def Link.state (l : Link) : LinkState :=
  match l.exchange with
  | .held => .held
  | .idle => .idle
  | .recovery _ _ => .busy
  | _ => if l.enumRun.isSome then .enumerating else .busy

def State.updLink (s : State) (f : Link → Link) : State := s.setLink (f s.link)
def State.setExchange (s : State) (x : Exchange) : State := s.updLink fun l => { l with exchange := x }
def State.countLink (s : State) (f : LinkCounters → LinkCounters) : State :=
  s.updLink fun l => { l with counters := f l.counters }

/-! ## The arbiter (R127) -/

/-- An enumeration begins: its first round's assignment call is sent (R122, R123). -/
def State.beginEnum (s : State) (o : Origin) : State :=
  s.updLink fun l =>
    { l with exchange := .call, enumPending := if o = .join then l.enumPending else none,
             joinPending := if o = .join then false else l.joinPending,
             enumRun := some { origin := o, rounds := 0, assigned := 0, failed := 0 } }

/-- Steps 2 to 6 of the arbiter: a pending enumeration, the head of the urgent queue, the head of the ordinary queue (a
mark is promoted), a JOIN round, or IDLE (R127). -/
def State.arbitrate (s : State) : State :=
  match s.link.enumPending with
  | some o => s.beginEnum o
  | none =>
    match s.link.urgent with
    | t :: rest => s.updLink fun l => { l with urgent := rest, exchange := .txn t false }
    | [] =>
      match s.link.ordinary with
      | t :: rest => (s.updLink fun l => { l with ordinary := rest, exchange := .txn t false }).promote
      | [] => if s.link.joinPending then s.beginEnum .join else s.setExchange .idle

/-- A request that arrives while the link is IDLE is taken at once (R127). -/
def State.kickLink (s : State) : State := if s.link.exchange = .idle then s.arbitrate else s

/-- A window found no request, or a request exchange has ended: the next round of an enumeration in flight (R122), or the
arbiter. -/
def State.afterWindow (s : State) : State :=
  if s.link.enumRun.isSome then s.setExchange .call else s.arbitrate

/-! ## Rounds (R123 to R125) -/

/-- The counts of an enumeration as a reply carries them (R125). -/
def enumCounts (assigned failed : Nat) : List Byte := enc1 assigned ++ enc1 failed

/-- An enumeration ends (R125): its result is written, join pending follows the cause, LINK is raised, an enumeration of
origin HOST places its reply. `admitted`: its last round admitted a module. -/
def State.endEnum (s : State) (cause : EnumEnd) (admitted : Bool) : State :=
  match s.link.enumRun with
  | none => s
  | some r =>
    let s := s.updLink fun l =>
      { l with
        enumRun := none
        lastResult := some { assigned := r.assigned, failed := r.failed, cause := cause }
        joinPending :=
          if cause = .noResponse then false
          else if r.origin = .join ∧ admitted ∧ l.accept then true else l.joinPending }
    let s := s.raise .link
    if r.origin = .host then
      s.replyLong .enumeration .ok (enumCounts r.assigned r.failed ++ encFlag (cause == .tableFull))
    else s

/-- A round has completed or failed: the eighth, or the one of a JOIN, ends the enumeration (R125). -/
def State.roundDone (s : State) (admitted : Bool) : State :=
  match s.link.enumRun with
  | none => s
  | some r =>
    let r := { r with rounds := r.rounds + 1, assigned := r.assigned + (if admitted then 1 else 0),
                      failed := r.failed + (if admitted then 0 else 1) }
    let s := s.updLink fun l => { l with enumRun := some r }
    if r.origin = .join ∨ 8 ≤ r.rounds then s.endEnum .roundLimit admitted else s

/-- A failed round adds to the rounds-failed counter and to the enumeration's count (R123). -/
def State.roundFailed (s : State) : State :=
  (s.countLink fun c => { c with roundsFailed := count16 c.roundsFailed }).roundDone false

/-- A link address is free when no PRESENT entry holds it (R119). -/
def State.addressFree (s : State) (a : Nat) : Bool :=
  allEntries.all fun k => (s.entry k).all fun e => e.presence == .absent || e.address != a

/-- The lowest free address. -/
def State.lowestFree (s : State) : Option Nat := [1, 2, 3, 4, 5, 6].find? s.addressFree

/-- The lowest-numbered empty entry. -/
def State.emptyEntry (s : State) : Option EntryId := allEntries.find? fun k => (s.entry k).isNone

/-- What the part decides for the identity read (R123 step 3); none for a full table. When six PRESENT modules hold all six
addresses, the winner is one of them and keeps its own (log 10). -/
def State.decideWinner (s : State) (id : Identity) : Option Winner :=
  match s.entryOf id with
  | some k =>
    let own := (s.entry k).elim 1 (·.address)
    some { identity := id, entry := k, address := if s.addressFree own then own else s.lowestFree.getD own }
  | none => s.emptyEntry.bind fun k => s.lowestFree.map fun a => { identity := id, entry := k, address := a }

/-- The request window that follows a transaction, a round or a recovery (R127 step 1). -/
def State.openWindow (s : State) : State := s.setExchange .window

/-! ## Presence (R124, R130, R133) -/

/-- The fault bits of a channel all clear. -/
def FaultBits.clear : FaultBits := { tempWarn := false, tempShut := false, overcurrent := false, dcFault := false }

/-- A winner with `n` channels is written into the table and reported PRESENT (R124, R107, R148). -/
def State.modulePresent (s : State) (w : Winner) (n : Nat) : State :=
  let s := s.setEntry w.entry (some
    { identity := w.identity, address := w.address, presence := .present, misses := 0, supplyLow := false,
      temperature := none, faults := List.replicate n .clear, polled := s.now })
  let s := s.markEntry w.entry
  let s := s.protPresent w.entry w.identity n
  let s := s.redecideAll (s.slotsOn w.identity)
  s.requestEnable w.identity

/-- A module's third miss: it becomes ABSENT, its waiting transactions are discarded, the slot stage and the protection unit
are told (R130, R147). -/
def State.moduleAbsent (s : State) (k : EntryId) (e : Entry) : State :=
  let s := s.setEntry k (some { e with presence := .absent, misses := 3 })
  let before := s.link.ordinary.length
  let s := s.updLink fun l => l.discard e.identity
  let s := State.promoteN (before - s.link.ordinary.length) s
  let s := s.markEntry k
  let s := s.redecideAll (s.slotsOn e.identity)
  s.protAbsent k e.identity

/-- A miss is charged to the module of a failed transaction, which is put back, or discarded with the module's others at the third
miss (R128). The result names the module that became ABSENT. -/
def State.chargeMiss (s : State) (t : Txn) : State × Option Identity :=
  match s.presentEntry t.identity with
  | none => (s, none)
  | some (k, e) =>
    if 3 ≤ e.misses + 1 then (s.moduleAbsent k e, some e.identity)
    else ((s.setEntry k (some { e with misses := e.misses + 1 })).updLink fun l => l.putBack t, none)

/-- After a failed transaction the line is free: the ASSIGN owed to a module that became ABSENT (R130), or the window. -/
def State.afterFailure (s : State) (owed : Option Identity) : State :=
  match owed with
  | some id => s.setExchange (.release id)
  | none => s.openWindow

/-! ## Status and descriptor replies (R132, R133) -/

/-- The fault bits of a status byte (7.5). -/
def FaultBits.ofByte (b : Byte) : FaultBits :=
  { tempWarn := b.getLsbD 0, tempShut := b.getLsbD 1, overcurrent := b.getLsbD 2, dcFault := b.getLsbD 3 }

/-- The mask of channels whose bit is 1 in the reply and 0 in the last status (R132). -/
def newFaults (bit : FaultBits → Bool) (old new : List FaultBits) : Byte :=
  channelMask ((List.range' 1 new.length).filter fun ch =>
    (new[ch - 1]?).any bit && !(old[ch - 1]?).any bit)

/-- The new faults of a status reply, in the order of R132. -/
def statusItems (e : Entry) (supplyLow : Bool) (faults : List FaultBits) : List (FaultKind × Byte) :=
  let item := fun (k : FaultKind) (bit : FaultBits → Bool) =>
    let m := newFaults bit e.faults faults
    if m = 0 then [] else [(k, m)]
  item .tempWarn (·.tempWarn) ++ item .tempShut (·.tempShut) ++ item .overcurrent (·.overcurrent) ++
    item .dcFault (·.dcFault) ++
    (if supplyLow && !e.supplyLow then [(.supplyLow, 0)] else if !supplyLow && e.supplyLow then [(.supplyOk, 0)] else [])

/-- An acknowledged READ_STATUS (R132), and the READ_DESC that its descriptor-changed bit asks for (R133). -/
def State.statusReply (s : State) (k : EntryId) (e : Entry) (reply : List Byte) : State :=
  let supply := (reply.getD 0 0).getLsbD 0
  let temp := (reply.getD 1 0).toInt
  let faults := ((reply.drop 2).take e.faults.length).map FaultBits.ofByte
  let items := statusItems e supply faults
  let s := s.setEntry k (some { e with supplyLow := supply, temperature := some temp, faults := faults })
  let s := if items.isEmpty then s else s.faultReport k e.identity items temp
  if (reply.getD 0 0).getLsbD 1 then s.request e.identity .readDesc 0 else s

/-- An acknowledged READ_DESC with a count of 1..8 (R133). -/
def State.descReply (s : State) (k : EntryId) (e : Entry) (n : Nat) : State :=
  if n = e.faults.length then s
  else
    let s := s.setEntry k (some { e with faults := e.faults.take n ++ List.replicate (n - e.faults.length) .clear })
    let s := s.markEntry k
    let s := s.protCount k e.identity n
    s.redecideAll (s.slotsOn e.identity)

/-- A channel count a READ_DESC may return (7.5). -/
def descCount (reply : List Byte) : Option Nat :=
  match reply with
  | [b] => if 1 ≤ b.toNat ∧ b.toNat ≤ 8 then some b.toNat else none
  | _ => none

/-- A negative acknowledge of a transaction: the first brings one repeat, the second a miss (R128). -/
def State.txnRefused (s : State) (t : Txn) (again : Bool) : State :=
  let s := s.countLink fun c => { c with naks := count16 c.naks }
  if again then
    let (s, owed) := s.chargeMiss t
    s.afterFailure owed
  else s.setExchange (.txn t true)

/-- How many bytes a transaction reads (7.5). -/
def txnReplyLength (t : Txn) (e : Entry) : Nat :=
  match t.kind with
  | .readStatus => 2 + e.faults.length
  | .readDesc => 1
  | _ => 0

/-- A transaction ends acknowledged (R128). The effect of a read follows; a READ_DESC reply outside 1..8 counts as a negative
acknowledge (R133). -/
def State.txnAcknowledged (s : State) (t : Txn) (again : Bool) (reply : List Byte) : State :=
  match s.presentEntry t.identity with
  | none => s.openWindow
  | some (k, e) =>
    if reply.length < txnReplyLength t e then s
    else if t.kind = .readDesc ∧ descCount (reply.take 1) = none then s.txnRefused t again
    else
      let e := { e with misses := 0 }
      let s := s.setEntry k (some e)
      let s := s.countLink fun c => { c with completed := count16 c.completed }
      let s := match t.kind with
        | .readStatus => s.statusReply k e reply
        | .readDesc => s.descReply k e ((descCount (reply.take 1)).getD 1)
        | _ => s
      s.openWindow

/-! ## Line recovery (R129) -/

/-- The exchange a stall interrupts is ended: a transaction is charged once, within the stall's event (R129, R130; log 42); a request exchange
takes nothing; a round fails only after the recovery. The result names a module that became ABSENT. -/
def State.stallEnds (s : State) : State × Option Identity :=
  match s.link.exchange with
  | .txn t _ => s.chargeMiss t
  | _ => (s, none)

/-- The exchanges of a round (R123). -/
def Exchange.inRound : Exchange → Bool
  | .call | .assign _ _ | .desc _ _ => true
  | _ => false

/-- The recovery has freed the line: a round it interrupted ends failed (R123, R129), then the ASSIGN owed or the window follows. -/
def State.lineFreed (s : State) (owed : Option Identity) (round : Bool) : State :=
  (if round then s.roundFailed else s).afterFailure owed

/-- Exchanges a stall can interrupt. -/
def Exchange.inFlight : Exchange → Bool
  | .txn _ _ | .release _ | .request _ | .call | .assign _ _ | .desc _ _ => true
  | _ => false

end Sys2Proof.Machine
end

