-- ==== Sys2Proof/Machine/Ports.lean ====
section
/-! DEFINITION. The input receivers: naming a port, lock, the sync watcher, the tuner port (R2 to R10). -/

namespace Sys2Proof.Machine

/-! ## Port records -/

/-- A port at NO_SIGNAL: rate, content and mark cleared, timer stopped, watcher reset (R2, R4). -/
def Port.noSignal : Port := { Port.reset with state := .noSignal }

/-- A port that locks at a rate with content PCM (R5, R6). -/
def Port.lockedPcm : Port := { Port.reset with state := .locked, rate := some 2, content := .pcm }

/-- The stability timer reaches 20 ms (R3). -/
def Port.lock (x : Port) (r : RateCode) : Port :=
  { x with state := .locked, rate := some r, content := .undetermined, stability := none, phase := .seek, count := 0 }

/-- The measured rate is now recognised as a listed rate, or not (R3). -/
def Port.recognise (x : Port) (now : Nat) (rate : Option RateCode) : Port :=
  match rate with
  | none => { x with stability := none }
  | some r => if x.stability.map (·.1) = some r then x else { x with stability := some (r, now) }

/-- The measured rate leaves the locked rate (R4): the mark is kept. -/
def Port.rateChanged (x : Port) (now : Nat) (rate : Option RateCode) : Port :=
  { x with state := .locking, rate := none, content := .undetermined, stability := rate.map fun r => (r, now), phase := .seek, count := 0 }

/-! ## The sync watcher (R8, R9) -/

/-- The end marks expected after a valid format word (R8). -/
def expectedMarks (w : TWord) : Nat := 1 + (if w.getLsbD 15 then 1 else 0) + TWord.field w 16 4 + 1

/-- The phase after a word that is not a sighting (R8). -/
def WatchPhase.next (x : WatchPhase) (w : TWord) : WatchPhase :=
  match x with
  | .seek => .seek
  | .format => if 1 ≤ TWord.field w 16 4 ∧ TWord.field w 16 4 ≤ 12 then .marks (expectedMarks w) else .seek
  | .marks k => if TWord.endMark w then (if k ≤ 1 then .due else .marks (k - 1)) else .marks k
  | .due => .seek

/-- The word is a sighting: a sync word in SEEK, or at the expected position (R8). -/
def Port.sights (x : Port) (w : TWord) : Bool := TWord.isSync w && (x.phase == .seek || x.phase == .due)

/-- The content R9 decides at a count of 4,096. -/
def Port.decided (p : PortId) (x : Port) : Content := if p.biphase && x.nonAudio then .unsupported else .pcm

/-- The watcher takes one word (R8, R9). -/
def Port.watch (p : PortId) (x : Port) (w : TWord) : Port :=
  if x.sights w then
    { x with count := 0, phase := .format, content := if x.phase = .due then .packed else x.content }
  else
    { x with phase := x.phase.next w, count := countUp Config.sightingLimit x.count
             content := if x.count + 1 = Config.sightingLimit then x.decided p else x.content }

/-- A word of channel pair 0 of a LOCKED port is taken (R8, R9), and delivered to the decoder that was bound when it arrived, while the
content is PACKED (R7, R41). The content is judged after the word: the word that ends PACKED at a count of 4,096 is not delivered (DESIGN
CHOICE, log 45). -/
def State.takeWord (s : State) (p : PortId) (w : TWord) : State :=
  let bound := s.decoderOn p
  let s := s.updPort p fun x => x.watch p w
  match bound with
  | none => s
  | some d =>
    if (s.port p).content = .packed ∧ (s.decoder d).port = some p then
      let old := (s.decoder d).state
      (s.updDecoder d (·.take w)).decoderChanged d old
    else s

/-- A channel status block (R10). -/
def Port.channelStatus (x : Port) (nonAudio : Bool) : Port :=
  let decided : Bool := x.state = .locked ∧ x.count = Config.sightingLimit
  { x with
    nonAudio := nonAudio
    content :=
      if decided ∧ nonAudio ≠ x.nonAudio then
        (match x.content with
         | .pcm => if nonAudio then .unsupported else .pcm
         | .unsupported => if nonAudio then .unsupported else .pcm
         | c => c)
      else x.content }

/-! ## Naming (R2, R5, R6) -/

/-- The tuner port as R6 gives it. -/
def State.tunerPortRecord (s : State) : Port :=
  if s.named tunerPort then
    match s.tuner.state with
    | .off => .reset
    | .idle => .lockedPcm
    | _ => .noSignal
  else .reset

/-- P10 is evaluated again (R6). -/
def State.evaluateTunerPort (s : State) : State := s.updPort tunerPort fun _ => s.tunerPortRecord

/-- The record a port takes on becoming named (R2, R5, R6). -/
def State.namedRecord (s : State) (p : PortId) : Port :=
  if p.watched then .noSignal else if p.converter then .lockedPcm else s.tunerPortRecord

/-- A port becomes named or ceases to be named with a change of the source table (R2). -/
def State.renamePort (s : State) (p : PortId) (before : Bool) : State :=
  if s.named p = before then s
  else if s.named p then s.updPort p fun _ => s.namedRecord p
  else s.updPort p fun _ => .reset

end Sys2Proof.Machine
end

