-- ==== Sys2Proof/Machine/Stations.lean ====
section
/-! DEFINITION. Station memory (R170 to R175), the station list (R162) and the station data decoder with its announcements
(R176 to R183). -/

namespace Sys2Proof.Machine

/-! ## Station memory -/

/-- FM counts as 0 and AM as 1 (R170). -/
def Band.number : Band → Nat
  | .fm => 0
  | .am => 1

/-- The last channel of a band (9.1). -/
def Band.last : Band → Nat
  | .fm => 410
  | .am => 119

/-- The set a channel's entry lives in (R170). -/
def setIndex (b : Band) (ch : Nat) : Fin 16 := ⟨(ch + 8 * b.number) % 16, Nat.mod_lt _ (by decide)⟩

def allWays : List (Fin 4) := [0, 1, 2, 3]

/-- The way of a set that holds a tag. -/
def wayOf (t : StationSet) (b : Band) (ch : Nat) : Option (Fin 4) :=
  allWays.find? fun w => (t[w]).any fun e => e.band == b && e.channel == ch

/-- How many valid entries of a set are unlocked. -/
def unlockedCount (t : StationSet) : Nat := (allWays.filter fun w => (t[w]).any (·.rank.isSome)).length

/-- Each unlocked entry ranked above `k` drops by 1 (R171). -/
def dropAbove (k : Nat) (t : StationSet) : StationSet :=
  t.map fun e => e.map fun x => { x with rank := x.rank.map fun r => if k < r then r - 1 else r }

/-- A hand-over hit on way `w` (R171). -/
def refreshWay (t : StationSet) (w : Fin 4) (e : StationEntry) (al : Byte) (q : Quality) (code : Option (BitVec 16))
    (name : Option (List Byte)) : StationSet :=
  let e := { e with alignment := al, quality := q, code := code.or e.code, name := name.or e.name }
  match e.rank with
  | none => t.set w (some e)
  | some k => (dropAbove k t).set w (some { e with rank := some (unlockedCount t) })

/-- A new entry joins way `w`: locked without a rank, or with rank n, counted after it has joined (R171). -/
def joinWay (t : StationSet) (w : Fin 4) (e : StationEntry) (lock : Bool) : StationSet :=
  t.set w (some { e with rank := if lock then none else some (unlockedCount (t.set w none) + 1) })

/-- The insertion of a miss: an invalid way, else the unlocked entry of rank 1, else not stored (R171). -/
def insertSet (t : StationSet) (e : StationEntry) (lock : Bool) : Option StationSet :=
  match allWays.find? (fun w => (t[w]).isNone) with
  | some w => some (joinWay t w e lock)
  | none =>
    match allWays.find? (fun w => (t[w]).any fun x => x.rank == some 1) with
    | some w => some (joinWay (dropAbove 1 t) w e lock)
    | none => none

def StationMemory.set (m : StationMemory) (b : Band) (ch : Nat) : StationSet := m.sets[setIndex b ch]
def StationMemory.setSet (m : StationMemory) (b : Band) (ch : Nat) (t : StationSet) : StationMemory :=
  { m with sets := m.sets.set (setIndex b ch) t }

/-- The valid entry of a tag. -/
def StationMemory.entry (m : StationMemory) (b : Band) (ch : Nat) : Option StationEntry :=
  (wayOf (m.set b ch) b ch).bind fun w => (m.set b ch)[w]

/-- A lookup: the alignment of a hit (R171). -/
def StationMemory.lookup (m : StationMemory) (b : Band) (ch : Nat) : Option Byte := (m.entry b ch).map (·.alignment)

/-- The valid entry of a tag is changed in place. -/
def StationMemory.updEntry (m : StationMemory) (b : Band) (ch : Nat) (f : StationEntry → StationEntry) : StationMemory :=
  match wayOf (m.set b ch) b ch with
  | none => m
  | some w => m.setSet b ch ((m.set b ch).set w (((m.set b ch)[w]).map f))

/-- An insertion, locked or not; a set of four locked entries stores nothing and counts (R171). -/
def StationMemory.insert (m : StationMemory) (e : StationEntry) (lock : Bool) : StationMemory × Bool :=
  match insertSet (m.set e.band e.channel) e lock with
  | some t => (m.setSet e.band e.channel t, true)
  | none => ({ m with notStored := if m.notStored < 65535 then m.notStored + 1 else 65535 }, false)

/-- A hand-over (R171). -/
def StationMemory.handOver (m : StationMemory) (b : Band) (ch : Nat) (al : Byte) (q : Quality) (code : Option (BitVec 16))
    (name : Option (List Byte)) : StationMemory :=
  match wayOf (m.set b ch) b ch with
  | some w =>
    match (m.set b ch)[w] with
    | some e => m.setSet b ch (refreshWay (m.set b ch) w e al q code name)
    | none => m
  | none =>
    (m.insert { band := b, channel := ch, rank := none, alignment := al, quality := q, code := code, name := name } m.lockMode).1

/-- A locked entry becomes the most recent unlocked one; an unlocked entry is left as it is (R174). -/
def StationMemory.unlock (m : StationMemory) (b : Band) (ch : Nat) : StationMemory :=
  m.updEntry b ch fun e => if e.rank.isSome then e else { e with rank := some (unlockedCount (m.set b ch) + 1) }

/-- An unlocked entry of rank k becomes locked, and those above it drop by 1 (R173). -/
def StationMemory.lock (m : StationMemory) (b : Band) (ch : Nat) : StationMemory :=
  match m.entry b ch with
  | none => m
  | some e =>
    match e.rank with
    | none => m
    | some k => (m.setSet b ch (dropAbove k (m.set b ch))).updEntry b ch fun e => { e with rank := none }

/-- Every entry becomes invalid; lock mode and counter are kept (R175). -/
def StationMemory.flush (m : StationMemory) : StationMemory := { m with sets := StationMemory.reset.sets }

/-! ## The station list (R162) -/

/-- The order of the list: FM before AM, then channel. -/
def stationKey (b : Band) (ch : Nat) : Nat := b.number * 1000 + ch

/-- A station in its place in ascending order; an entry of the same channel has its strength replaced (R162). -/
def enterStation (x : Station) : List Station → List Station
  | [] => [x]
  | y :: ys =>
    if stationKey x.band x.channel < stationKey y.band y.channel then x :: y :: ys
    else if stationKey x.band x.channel = stationKey y.band y.channel then { y with strength := x.strength } :: ys
    else y :: enterStation x ys

/-- The list is full for a channel: it holds 48 entries and none of that channel (R162). -/
def listFull (l : List Station) (b : Band) (ch : Nat) : Bool :=
  Config.stationListPlaces ≤ l.length && !(l.any fun y => y.band == b && y.channel == ch)

/-- The entry of a channel changed in place. -/
def updStation (b : Band) (ch : Nat) (f : Station → Station) (l : List Station) : List Station :=
  l.map fun y => if y.band = b ∧ y.channel = ch then f y else y

/-! ## Announcements (R180, R183) -/

/-- The decoder holds a complete name (R176). -/
def StationData.complete (x : StationData) : Bool := x.name.all (·.isSome)

/-- The eight characters of a complete name. -/
def StationData.fullName (x : StationData) : Option (List Byte) :=
  if x.complete then some (x.name.toList.flatMap fun q => q.elim [] fun c => [c.1, c.2]) else none

/-- A count 0..255 that holds at 255 (R183). -/
def upTo255 (n : Nat) : Nat := countUp 255 n

/-- An announcement starts (R180, R37): the zones take it in order of their numbers (log 53). -/
def State.startAnnouncement (s : State) : State :=
  let s := s.setStationData { s.stationData with active := some s.now, starts := upTo255 s.stationData.starts }
  allZones.foldl State.announceStart (s.raise .announce)

/-- An active announcement ends (R180, R38), for the zones in order of their numbers (log 53). -/
def State.endAnnouncement (s : State) (c : EndCause) : State :=
  if s.stationData.active.isNone then s
  else
    let s := s.setStationData
      { s.stationData with active := none, endCause := c, ends := upTo255 s.stationData.ends,
                           rearm := s.stationData.rearm || c == .timeout }
    allZones.foldl State.announceEnd (s.raise .announce)

/-- The station data decoder is cleared, an active announcement ending first (R176, log 9). -/
def State.clearStationData (s : State) (c : EndCause) : State :=
  let s := s.endAnnouncement c
  s.setStationData { StationData.reset with
    badGroups := s.stationData.badGroups, starts := s.stationData.starts, ends := s.stationData.ends }

/-! ## Groups (R176 to R179) -/

/-- The fields of a group's seven bytes (10.3). -/
structure Group where
  type : Nat
  index : Nat
  code : BitVec 16
  b3 : Byte
  b4 : Byte
  deriving DecidableEq, Repr

/-- A group whose check matches and whose code is nonzero (R176). -/
def Group.ofBytes (g : List Byte) : Option Group :=
  let b := fun (i : Nat) => g.getD i 0
  let check := (g.take 6).foldl (· ^^^ ·) 0xA5#8
  let code := BitVec.ofNat 16 ((b 1).toNat * 256 + (b 2).toNat)
  if b 6 = check ∧ code ≠ 0 then
    some { type := (b 0).toNat / 16, index := (b 0).toNat % 16, code := code, b3 := b 3, b4 := b 4 }
  else none

/-- A bad group is counted and discarded (R176). -/
def State.badGroup (s : State) : State :=
  s.setStationData { s.stationData with badGroups := if s.stationData.badGroups < 65535 then s.stationData.badGroups + 1 else 65535 }

/-- A code or a name decoded is written into the station memory entry and the station list entry of the tuned channel
(R177, R178). -/
def State.writeStation (s : State) (code : Option (BitVec 16)) (name : Option (List Byte)) : State :=
  let t := s.tuner
  let m := s.stationMemory.updEntry t.band t.channel fun e => { e with code := code.or e.code, name := name.or e.name }
  { s.setStationMemory m with
    stations := updStation t.band t.channel (fun y => { y with code := code.or y.code, name := name.or y.name }) s.stations }

/-- A code becomes stable (R177). -/
def State.newIdentity (s : State) (c : BitVec 16) : State :=
  let s := s.endAnnouncement .identity
  let s := s.setStationData
    { s.stationData with stable := some c, name := StationData.reset.name, alternates := [], setRun := 0, clearRun := 0 }
  (s.writeStation (some c) none).raise .station

/-- An IDENT group of the stable code drives the announcement runs (R180). A set run that stands at 2 with no announcement active starts one at the
next group with the bit set (DESIGN CHOICE, log 58). -/
def State.announcementRun (s : State) (flag : Bool) : State :=
  let x := s.stationData
  if flag then
    let s := s.setStationData { x with setRun := min 2 (x.setRun + 1), clearRun := 0 }
    if 2 ≤ x.setRun + 1 ∧ x.active.isNone ∧ !x.rearm then s.startAnnouncement else s
  else
    let s := s.setStationData { x with clearRun := min 2 (x.clearRun + 1), setRun := 0, rearm := x.rearm && x.clearRun + 1 < 2 }
    if 2 ≤ x.clearRun + 1 then s.endAnnouncement .clear else s

/-- An IDENT group (R177, R180). -/
def State.identGroup (s : State) (g : Group) : State :=
  let x := s.stationData
  let run := match x.candidate with
    | some (c, n) => if c = g.code then min 2 (n + 1) else 1
    | none => 1
  let s := s.setStationData { x with candidate := some (g.code, run) }
  let s := if run = 2 ∧ x.stable ≠ some g.code then s.newIdentity g.code else s
  if s.stationData.stable = some g.code then
    (s.setStationData { s.stationData with capable := g.b3.getLsbD 0, stereo := g.b3.getLsbD 2 }).announcementRun (g.b3.getLsbD 1)
  else s.setStationData { s.stationData with setRun := 0, clearRun := 0 }

/-- A NAME group of the stable code with a segment 0..3 (R178). -/
def State.nameGroup (s : State) (i : Fin 4) (c : Byte × Byte) : State :=
  let x := s.stationData
  if x.name[i] = some c then s
  else
    let name := if x.complete then (Vector.replicate 4 none).set i (some c) else x.name.set i (some c)
    let s := s.setStationData { x with name := name }
    match s.stationData.fullName with
    | some n => (s.writeStation none (some n)).raise .station
    | none => s

/-- An ALTFREQ group of the stable code (R179). -/
def State.altGroup (s : State) (ch : Nat) : State :=
  let x := s.stationData
  if ch ∈ x.alternates ∨ ch = s.tuner.channel ∨ Config.alternatePlaces ≤ x.alternates.length then s
  else s.setStationData { x with alternates := x.alternates ++ [ch] }

/-- The station data decoder takes a group (R176 to R179). Check byte and code are tested before the type, so a bad group of type 3 to 15 is counted
(DESIGN CHOICE, log 57). -/
def State.takeGroup (s : State) (bytes : List Byte) : State :=
  match Group.ofBytes bytes with
  | none => s.badGroup
  | some g =>
    if g.type = 0 then s.identGroup g
    else if g.type = 1 then
      (if s.stationData.stable ≠ some g.code then s
       else match toFin? 4 g.index with
         | none => s.badGroup
         | some i => s.nameGroup i (g.b3, g.b4))
    else if g.type = 2 then
      (if s.stationData.stable ≠ some g.code then s
       else if 410 < g.b3.toNat * 256 + g.b4.toNat then s.badGroup
       else s.altGroup (g.b3.toNat * 256 + g.b4.toNat))
    else s

end Sys2Proof.Machine
end

