-- ==== Sys2Proof/Machine/TunerUnit.lean ====
section
/-! DEFINITION. The tuner controller: its states, the visit to one channel (SET_FREQUENCY, settle, SET_ALIGNMENT, wait,
READ_QUALITY), and what a measurement does to a tune, a seek, a scan, a check and a return tune (R152 to R167). -/

namespace Sys2Proof.Machine

/-- The frequency of a channel in kHz (9.1). -/
def frequencyKHz (b : Band) (r : Region) (ch : Nat) : Nat :=
  match b, r with
  | .fm, _ => 87500 + 50 * ch
  | .am, .khz9 => 531 + 9 * ch
  | .am, .khz10 => 520 + 10 * ch

/-- The settle time of a band in ms (9.1). -/
def Band.settle : Band → Nat
  | .fm => 10
  | .am => 30

/-- The channel count of a band (9.1). -/
def Band.channels (b : Band) : Nat := b.last + 1

/-! ## States -/

/-- A change of tuner state (R152): the low-signal timer stops, entering IDLE starts the monitor period (R156), an announcement ends in
a state other than IDLE or CHECKING (R180), P10 is evaluated again (R6): in this order (DESIGN CHOICE, log 63). -/
def State.setTunerState (s : State) (st : TunerState) : State :=
  if s.tuner.state = st then s
  else
    let s := s.updTuner fun t =>
      { t with state := st, lowSince := none, monitorSince := if st = .idle then s.now else t.monitorSince }
    let s := if st = .idle ∨ st = .checking then s else s.endAnnouncement .retune
    s.evaluateTunerPort

/-- The operation field becomes none, and the step and job of the tuner end. -/
def State.stopTuner (s : State) : State := s.updTuner fun t => { t with op := none, job := .none, step := .rest, again := false }

/-- The visit to a channel begins: it is written into the record and SET_FREQUENCY is sent (R158). -/
def State.visit (s : State) (b : Band) (ch : Nat) : State :=
  s.updTuner fun t => { t with band := b, channel := ch, step := .setFrequency, again := false, hit := false }

/-- A return tune toward a channel (R160); `keeps` when it ends a check. -/
def State.returnTune (s : State) (ch : Nat) (keeps : Bool) : State :=
  let s := if keeps then s else s.clearStationData .retune
  let s := s.updTuner fun t => { t with job := .back ch keeps }
  (s.setTunerState .tuning).visit s.tuner.band ch

/-- The front end has failed twice (R153): NO_RESOURCE for the operation in flight, everything under way abandoned, FAULT. The reply carries no
data, that of a scan included (DESIGN CHOICE, log 6). -/
def State.tunerFault (s : State) : State :=
  ((s.replyLong .tuner .noResource []).stopTuner).setTunerState .fault

/-- TUN.POWER off (R154). The reply ABORTED of the operation in flight carries no data; that of a scan has the found count at TUN.ABORT only
(DESIGN CHOICE, log 6). An announcement ends before P10 is evaluated again (DESIGN CHOICE, log 63). -/
def State.tunerOff (s : State) : State :=
  let s := (s.replyLong .tuner .aborted []).stopTuner
  (s.clearStationData .powerOff).setTunerState .off

/-- A long operation of the tuner is taken (R158, R161, R163): the reservation is kept, the decoder told of a retune. -/
def State.startOp (s : State) (c : Command) (op : TunerOp) (st : TunerState) (job : Job) : State :=
  let s := (s.holdReply .tuner c).clearStationData .retune
  (s.updTuner fun t => { t with op := some op, job := job }).setTunerState st

/-- Why a long operation is refused in the present state (R158). -/
def State.tunerRefusal (s : State) : Option Result :=
  match s.tuner.state with
  | .idle => none
  | .fault => some .noResource
  | _ => some .notNow

/-! ## Quality (R156) -/

/-- A reading written into the record; multipath 0 and no stereo on AM (R156). -/
def Tuner.read (t : Tuner) (q : Reading) : Tuner :=
  { t with alignment := q.alignment
           quality := match t.band with
             | .fm => { strength := q.strength.toNat, multipath := q.multipath.toNat, stereo := q.stereo }
             | .am => { strength := q.strength.toNat, multipath := 0, stereo := false } }

/-- The measurement in the record passes (R156). -/
def Tuner.passes (t : Tuner) : Bool :=
  t.strengthThreshold ≤ t.quality.strength && (t.band == .am || t.quality.multipath ≤ t.multipathThreshold)

/-- The data that carry a quality. -/
def encQuality (q : Quality) : List Byte := enc1 q.strength ++ enc1 q.multipath ++ encFlag q.stereo

def encBand (b : Band) : List Byte := enc1 b.number

/-- The tuned channel is handed to station memory with the alignment and quality of the record (R171). -/
def State.handOver (s : State) (code : Option (BitVec 16)) (name : Option (List Byte)) : State :=
  s.setStationMemory (s.stationMemory.handOver s.tuner.band s.tuner.channel s.tuner.alignment s.tuner.quality code name)

/-! ## What follows a measurement -/

/-- The next channel of a seek, wrapping (R161). -/
def nextChannel (b : Band) (up : Bool) (ch : Nat) : Nat :=
  if up then (if ch < b.last then ch + 1 else 0) else if ch = 0 then b.last else ch - 1

/-- The tuner goes to IDLE with nothing under way. -/
def State.toIdle (s : State) : State :=
  (s.updTuner fun t => { t with op := none, job := .none, step := .rest, again := false }).setTunerState .idle

/-- A tune completes (R158, steps 5 and 6); an aborted one takes no part in station memory and has no reply left (R159). -/
def State.tuneDone (s : State) (aborted : Bool) : State :=
  let t := s.tuner
  let s := s.toIdle
  if aborted then s
  else (s.handOver none none).replyLong .tuner .ok (encBand t.band ++ enc2 t.channel ++ encQuality t.quality)

/-- A seek has its station (R161, Found). -/
def State.seekDone (s : State) (aborted : Bool) : State :=
  let t := s.tuner
  let s := s.toIdle
  if aborted then s
  else (s.handOver none none).replyLong .tuner .ok (enc2 t.channel ++ encQuality t.quality)

/-- SET_ALIGNMENT with SEARCH is sent for a found station (R161, R163). -/
def State.searchFound (s : State) (job : Job) : State :=
  s.updTuner fun t => { t with job := job, step := .setAlignment none }

/-- A step of a seek has measured (R161, steps 4 and 5). -/
def State.seekMeasured (s : State) (up : Bool) (op : TunerOp) : State :=
  let left := op.loop - 1
  let s := s.updTuner fun t => { t with op := some ({ op with loop := left }) }
  if s.tuner.passes then (if s.tuner.hit then s.seekDone false else s.searchFound (.seekFound false))
  else if left = 0 then s.returnTune op.start false
  else s.visit s.tuner.band (nextChannel s.tuner.band up s.tuner.channel)

/-- A scan goes on with the next channel, or returns to its start (R163). -/
def State.scanNext (s : State) (op : TunerOp) : State :=
  if s.tuner.channel < s.tuner.band.last then
    (s.updTuner fun t => { t with job := .scanStep }).visit s.tuner.band (s.tuner.channel + 1)
  else s.returnTune op.start false

/-- A channel of a scan is handed to station memory and counted (R163, step 3). -/
def State.scanFoundDone (s : State) (op : TunerOp) : State :=
  let op := { op with found := op.found + 1 }
  ((s.handOver none none).updTuner fun t => { t with op := some op }).scanNext op

/-- A step of a scan has measured (R163, step 3). -/
def State.scanMeasured (s : State) (op : TunerOp) : State :=
  let t := s.tuner
  if !t.passes then s.scanNext op
  else if listFull s.stations t.band t.channel then
    (s.updTuner fun t => { t with op := some ({ op with listFull := true }) }).returnTune op.start false
  else
    let st : Station := { band := t.band, channel := t.channel, strength := t.quality.strength, code := none, name := none }
    let s := { s with stations := enterStation st s.stations }
    if t.hit then s.scanFoundDone op else s.searchFound .scanFound

/-- The data of the reply of a scan that has ended (R163): LIST_FULL is a flag byte in each of them (DESIGN CHOICE, log 6). -/
def scanData (op : TunerOp) : List Byte := enc1 op.found ++ encFlag op.listFull

/-- A return tune reaches IDLE and places the reply of the seek or scan it ends (R160). -/
def State.returnDone (s : State) : State :=
  let op := s.tuner.op
  let s := s.toIdle
  match op with
  | none => s
  | some op =>
    match op.kind with
    | .seek => s.replyLong .tuner .notFound []
    | .scan => s.replyLong .tuner .ok (scanData op)
    | .tune => s

/-- The alternate of index `i` is tried, or the check returns to its original channel (R166). -/
def State.tryAlternate (s : State) (original i : Nat) : State :=
  match s.stationData.alternates[i]? with
  | some ch => (s.updTuner fun t => { t with job := .check original i }).visit s.tuner.band ch
  | none => s.returnTune original true

/-- A good alternate (R166, R171). -/
def State.checkGood (s : State) : State :=
  s.toIdle.handOver s.stationData.stable s.stationData.fullName

/-- A measurement is written and judged by what is under way (R156, R158 to R166). -/
def State.measured (s : State) (q : Reading) : State :=
  let s := s.updTuner fun t => t.read q
  match s.tuner.job, s.tuner.op with
  | .none, _ => s
  | .tune aborted, _ => s.tuneDone aborted
  | .seekStep up, some op => s.seekMeasured up op
  | .seekFound aborted, _ => s.seekDone aborted
  | .scanStep, some op => s.scanMeasured op
  | .scanFound, some op => s.scanFoundDone op
  | .seekStep _, none | .scanStep, none | .scanFound, none => s
  | .back _ _, _ => s.returnDone
  | .check original i, _ =>
    if s.tuner.passes then s.updTuner fun t => { t with step := .ident s.now } else s.tryAlternate original (i + 1)

/-! ## Steps of a visit -/

/-- A transaction of the tuner link is in flight (R153): one of a visit, or a READ_DATA read while IDLE on FM or in the identity wait. -/
def Tuner.inFlight (t : Tuner) : Bool :=
  match t.step with
  | .setFrequency | .setAlignment _ | .read | .ident _ => true
  | .rest => t.state == .idle && t.band == .fm
  | _ => false

/-- A transaction is acknowledged (R153). -/
def State.tunerAcked (s : State) (q : Reading) : State :=
  let s := s.updTuner fun t => { t with again := false }
  match s.tuner.step with
  | .setFrequency => s.updTuner fun t => { t with step := .settle s.now }
  | .setAlignment none => s.updTuner fun t => { t with step := .search s.now }
  | .setAlignment (some a) => s.updTuner fun t => { t with alignment := a, step := .wait s.now }
  | .read => s.measured q
  | _ => s

/-- What is sent by SET_ALIGNMENT once the settle time has passed: the alignment of a hit; on a miss SEARCH for a host tune that has not
been aborted, else 128 (R158, R160, R161, R163, R166). -/
def alignmentToSend (job : Job) (hit : Option Byte) : Option Byte :=
  match hit, job with
  | some a, _ => some a
  | none, .tune false => none
  | none, _ => some 128

/-- The settle time ends (R158, steps 2 and 3). -/
def State.settled (s : State) : State :=
  let hit := s.stationMemory.lookup s.tuner.band s.tuner.channel
  s.updTuner fun t => { t with hit := hit.isSome, step := .setAlignment (alignmentToSend t.job hit) }

/-- TUN.ABORT cuts an alignment search off: the alignment of a hit, or 128, is sent in its place, a new transaction; a transaction of another
kind in flight goes on, and stays the repeat it may be (R153, R159). The tuner's state stays as it is: a found seek that is aborted stays
SEEKING, its operation none, until it is IDLE (DESIGN CHOICE, log 67). -/
def State.cutSearch (s : State) (job : Job) : State :=
  let value := (s.stationMemory.lookup s.tuner.band s.tuner.channel).getD 128
  s.updTuner fun t =>
    match t.step with
    | .search _ | .setAlignment none => { t with op := none, job := job, step := .setAlignment (some value), again := false }
    | _ => { t with op := none, job := job }

/-- The effect of TUN.ABORT by what is in progress (R167). -/
def State.abortTuner (s : State) : State :=
  match s.tuner.job, s.tuner.op with
  | .tune false, some _ => (s.replyLong .tuner .aborted []).cutSearch (.tune true)
  | .seekStep _, some op =>
    ((s.replyLong .tuner .aborted []).updTuner fun t => { t with op := none }).returnTune op.start false
  | .seekFound false, some _ => (s.replyLong .tuner .aborted []).cutSearch (.seekFound true)
  | .scanStep, some op | .scanFound, some op =>
    ((s.replyLong .tuner .aborted (enc1 op.found)).updTuner fun t => { t with op := none }).returnTune op.start false
  | .check original _, _ => s.returnTune original true
  | _, _ => s

/-- Some zone is RUNNING on a source whose port is P10 (R166). -/
def State.zoneOnTuner (s : State) : Bool :=
  allZones.any fun z => (s.zone z).state == .running && s.portOf z == some tunerPort

/-- Some zone is RUNNING or HELD on a source whose port is P10 (R163). -/
def State.zoneHoldsTuner (s : State) : Bool :=
  allZones.any fun z => ((s.zone z).state == .running || (s.zone z).state == .held) && s.portOf z == some tunerPort

/-- A check begins at this monitor read (R166). -/
def State.checkDue (s : State) : Bool :=
  s.tuner.band == .fm && s.tuner.follow && s.zoneOnTuner && !s.stationData.alternates.isEmpty &&
  s.tuner.lowSince.any fun t => Config.lowSignalMs ≤ s.now - t

/-- A monitor read (R156, R166). It writes the alignment that READ_QUALITY returns with the quality (DEDUCED, log 55), and the low-signal timer starts
at a weak one with follow OFF, too (DEDUCED, log 56). -/
def State.monitor (s : State) (q : Reading) : State :=
  let s := s.updTuner fun t =>
    let t := { t.read q with monitorSince := s.now }
    { t with lowSince :=
        if t.band = .fm ∧ t.quality.strength < t.followThreshold then some (t.lowSince.getD s.now) else none }
  if s.checkDue then (s.setTunerState .checking).tryAlternate s.tuner.channel 0 else s

end Sys2Proof.Machine
end

