-- ==== Sys2Proof/Machine/Notices.lean ====
section
/-! DEFINITION. The thirteen notices: their snapshots (R12, R24, R60, R61, R82, R117, R136, R151, R169, R182, R183, R194, R195) and the
end of an event, which places or latches what was raised (R188, R189, log 4). Codings: R186, log 6. -/

namespace Sys2Proof.Machine

/-! ## Pieces of snapshots -/

def encZones (l : List ZoneId) : List Byte := encList (fun (z : ZoneId) => enc1 z.val) l
def encNats (l : List Nat) : List Byte := encList enc1 l
def encMap (m : List Role) : List Byte := encList encRole m

/-- A destination in a reply or notice: the byte of its kind (AMP, LINE), then the fields of that kind only, the identity and the channel,
or the line output (DESIGN CHOICE, log 6). -/
def encDestination : Destination → List Byte
  | .amp id ch => enc1 0 ++ enc6 id ++ enc1 ch
  | .line l => enc1 1 ++ enc1 l.val

/-- Zone, role and destination, one item that may be absent where a rule lists them while assigned (DESIGN CHOICE, log 6). -/
def encAssignment (a : Assignment) : List Byte := enc1 a.zone.val ++ encRole a.role ++ encDestination a.dest

/-- One port in a SOURCE notice (R12). -/
def State.encPort (s : State) (p : PortId) : List Byte :=
  let x := s.port p
  enc1 x.state.ctorIdx ++ encOpt encRate x.rate ++ enc1 x.content.ctorIdx ++ (if p.biphase then encFlag x.nonAudio else [])

/-- One zone in a ZONE notice (R24); rate and channel count are one item that may be absent (DESIGN CHOICE, log 6). -/
def State.encZoneStatus (s : State) (z : ZoneId) : List Byte :=
  let x := s.zone z
  enc1 x.state.ctorIdx ++ encOpt (fun r => enc1 r.ctorIdx) x.reason ++ encIndex x.source ++
  encOpt (fun (r : RateCode) => encRate r ++ enc1 (x.map.elim 0 (·.length))) x.rate ++ encIndex x.decoder ++ encInt2 x.volume ++
  encOn x.mute ++ enc1 x.stack.length ++ encFlag x.delayClamped ++ encFlag x.annMissed

/-- One decoder in a DECODER notice (R60). -/
def State.encDecoderStatus (s : State) (d : DecoderId) : List Byte :=
  let x := s.decoder d
  enc1 x.state.ctorIdx ++ encIndex x.port ++ encZones (s.users d) ++ enc1 x.bad ++ enc1 x.lastCause.ctorIdx ++
  enc2 x.counters.rejected ++ enc2 x.counters.syncLosses

/-- One decoder in a FORMAT notice (R61): 1 and its format while it has a header, else 0 and its state. -/
def State.encFormat (s : State) (d : DecoderId) : List Byte :=
  match (s.decoder d).header, (s.decoder d).metadata with
  | some h, some m =>
    enc1 1 ++ encRate h.rate ++ enc1 h.map.length ++ encMap h.map ++ encInt2 m.level ++ encInt2 m.centreFold ++ encInt2 m.surroundFold
  | _, _ => enc1 0 ++ enc1 (s.decoder d).state.ctorIdx

/-- One slot in a CLIP notice (R82). -/
def State.encClip (s : State) (i : SlotId) : List Byte :=
  let x := s.slot i
  encIndex (x.assigned.map (·.zone)) ++ encFlag x.overflow ++ encFlag x.limited ++ enc2 x.clips

/-- One slot in a SLOT notice (R117). -/
def State.encSlotStatus (s : State) (i : SlotId) : List Byte :=
  let x := s.slot i
  enc1 x.state.ctorIdx ++ encOpt encAssignment x.assigned ++ encInt2 x.reduction ++ encInt2 x.limit

/-- The identities of the filled entries, in entry order. -/
def State.tableIdentities (s : State) : List Identity := allEntries.filterMap fun k => (s.entry k).map (·.identity)

/-- The owner and rate code of a lane (R117). -/
def State.encLane (s : State) (l : Lane) : List Byte := encIndex (s.laneOwner l) ++ encRate (s.laneRate l)

/-- The lanes of a SLOT notice (R117): owner and rate code of each amplifier lane of a module in the table, a list in the order of the table's
entries, then of the three line lanes (order and count byte: DESIGN CHOICE, log 6). -/
def State.encLanes (s : State) : List Byte :=
  encList (fun (id : Identity) => s.encLane (.amp id)) s.tableIdentities ++
  s.encLane (.line 0) ++ s.encLane (.line 1) ++ s.encLane (.line 2)

/-- One channel of a PROTECT notice (R151): absent when its record has been removed. -/
def State.encProtChannel (s : State) (id : Identity) (ch : Nat) : List Byte :=
  encOpt (fun (q : ProtModule × ProtRecord) =>
    enc1 q.2.state.ctorIdx ++ enc1 q.2.cause.ctorIdx ++ encInt2 q.2.reduction ++ encInt2 (effectiveReduction q.1.supplyLow q.2) ++
    encFlag q.2.muted ++ enc1 q.2.count) (s.protRecord id ch)

/-- Modules that hold records, with their supply flags (R151), in the order of the module table (DESIGN CHOICE, log 6). -/
def State.suppliesHeld (s : State) : List (Identity × Bool) :=
  allEntries.filterMap fun k =>
    match s.entry k, s.protModule k with
    | some e, some m => some (e.identity, m.supplyLow)
    | _, _ => none

def encPolicy (accept : Bool) : List Byte := enc1 (if accept then 0 else 1)
def encOrigin (o : Origin) : List Byte := enc1 o.ctorIdx

/-- The last enumeration result (R118). -/
def encEnumResult (r : EnumResult) : List Byte := enumCounts r.assigned r.failed ++ enc1 r.cause.ctorIdx

/-- One entry of a LINK notice (R136). A link address takes one byte (DESIGN CHOICE, log 6). -/
def encEntry (e : Entry) : List Byte :=
  enc6 e.identity ++ enc1 e.address ++ enc1 e.faults.length ++ enc1 e.presence.ctorIdx ++ enc1 e.misses

/-- A return tune or a power-on tune is in flight (R152, R160). -/
def Tuner.returning (t : Tuner) : Bool :=
  match t.job with
  | .back _ _ => true
  | _ => false

def encRegion (r : Region) : List Byte := enc1 r.ctorIdx

/-- The four segments of a name. -/
def encSegments (x : StationData) : List Byte := x.name.toList.flatMap (encOpt fun (c : Byte × Byte) => [c.1, c.2])

def encCode (c : BitVec 16) : List Byte := enc2 c.toNat

/-- The time an announcement has run (R180). -/
def State.announcementTime (s : State) : Option Nat := s.stationData.active.map fun t => s.elapsed t Config.announcementMs

/-! ## Snapshots -/

/-- The payload of START (R195), the part number in two bytes and the revision number in one (DESIGN CHOICE, log 6);
causes HARD, SOFT and memory kept, cleared in the order listed. -/
def startData (soft : Bool) (discarded : Nat) : List Byte :=
  enc1 (if soft then 1 else 0) ++ enc2 Config.partNumber ++ [Config.revision] ++ enc1 (if soft then 0 else 1) ++ enc1 discarded

/-- The snapshot a notice of kind `k` carries at this moment. The operation in TUNER is an item that may be absent, TUNE, SEEK and SCAN coded 0,
1 and 2, and the number of a changed entry of the module table takes one byte in LINK; the channel status of PROTECT follows the order of the
changed channels and has no number of elements of its own, while the supply field, a list of its own, has one (DESIGN CHOICE, log 6). -/
def State.snapshot (s : State) : NoticeKind → List Byte
  | .start => startData false 0
  | .zone => encNats s.changedZones ++ allZones.flatMap s.encZoneStatus ++ encZones s.waitList
  | .source => encNats s.changedPorts ++ allPorts.flatMap s.encPort
  | .decoder => encNats s.changedDecoders ++ allDecoders.flatMap s.encDecoderStatus
  | .format => encNats s.changedFormats ++ allDecoders.flatMap s.encFormat
  | .clip => encNats s.changedClips ++ allSlots.flatMap s.encClip
  | .slot => encNats s.changedSlots ++ allSlots.flatMap s.encSlotStatus ++ s.encLanes
  | .protect =>
    encList (fun (q : Identity × Nat) => enc6 q.1 ++ enc1 q.2) s.changedProt ++
    s.changedProt.flatMap (fun q => s.encProtChannel q.1 q.2) ++
    encList (fun (q : Identity × Bool) => enc6 q.1 ++ encFlag q.2) s.suppliesHeld ++ encFlag s.allRemoved
  | .link =>
    encNats s.link.changed ++ enc1 s.link.state.ctorIdx ++ encPolicy s.link.accept ++ encFlag s.link.stuck ++
    encOpt (fun (r : EnumRun) => encOrigin r.origin) s.link.enumRun ++ encOpt encEnumResult s.link.lastResult ++
    allEntries.flatMap (fun k => encOpt encEntry (s.entry k))
  | .tuner =>
    let t := s.tuner
    enc1 t.state.ctorIdx ++ encBand t.band ++ enc2 t.channel ++ encRegion t.region ++ encOn t.follow ++ encQuality t.quality ++
    encOpt (fun (o : TunerOp) => enc1 o.kind.ctorIdx) t.op ++ encFlag t.returning ++ enc1 s.stations.length
  | .station =>
    let x := s.stationData
    encBand s.tuner.band ++ enc2 s.tuner.channel ++ encOpt encCode x.stable ++ encFlag x.capable ++ encFlag x.stereo ++
    encSegments x ++ encFlag x.complete ++ encList enc2 x.alternates ++ enc2 x.badGroups
  | .announce =>
    let x := s.stationData
    encFlag x.active.isSome ++ encOpt encCode x.stable ++ enc2 s.tuner.channel ++ encOpt enc4 s.announcementTime ++
    enc1 x.endCause.ctorIdx ++ enc1 x.starts ++ enc1 x.ends
  | .group => enc1 s.control.groupsExpired ++ enc2 s.control.commandsDiscarded ++ encNats s.control.zonesDiscarded

/-- What a notice empties when it is placed. -/
def State.noticed (s : State) : NoticeKind → State
  | .start => s
  | .zone => { s with changedZones := [] }
  | .source => { s with changedPorts := [] }
  | .decoder => { s with changedDecoders := [] }
  | .format => { s with changedFormats := [] }
  | .clip => { s with changedClips := [] }
  | .slot => { s with changedSlots := [] }
  | .protect => { s with changedProt := [], allRemoved := false }
  | .link => s.setLink { s.link with changed := [] }
  | .tuner => s
  | .station => s
  | .announce => s.setStationData { s.stationData with starts := 0, ends := 0 }
  | .group => s.setControl { s.control with groupsExpired := 0, commandsDiscarded := 0, zonesDiscarded := [] }

/-! ## Placing and latching (R188, R189) -/

/-- The kinds in ascending order of their numbers. -/
def NoticeKind.all : List NoticeKind :=
  [.start, .zone, .source, .decoder, .format, .clip, .slot, .protect, .link, .tuner, .station, .announce, .group]

/-- The kind byte of a notice (11.2). -/
def NoticeKind.byte (k : NoticeKind) : Byte := BitVec.ofNat 8 (0xC0 + k.number.val)

/-- A notice of kind `k` is in the outgoing queue. -/
def Control.holds (c : Control) (k : NoticeKind) : Bool := c.outgoing.any fun m => m.kind == k.byte

/-- A notice of kind `k` is placed at the tail with its snapshot; its latch is cleared and its owner's sets emptied. -/
def State.place (s : State) (k : NoticeKind) : State :=
  let s := (s.pushMessage { kind := k.byte, tag := 0, payload := s.snapshot k }).noticed k
  s.setControl { s.control with latched := s.control.latched.set k.number false }

/-- The kind's latch is set. -/
def State.latch (s : State) (k : NoticeKind) : State :=
  s.setControl { s.control with latched := s.control.latched.set k.number true }

/-- A raised kind is placed or latched; a masked one is neither (R188). -/
def State.settleKind (s : State) (k : NoticeKind) : State :=
  if !s.raised[k.number] || !s.control.enabled[k.number] then s
  else if !s.control.holds k && s.control.hasRoom then s.place k
  else s.latch k

/-- No kind is raised any more. -/
def State.clearRaised (s : State) : State := { s with raised := Vector.replicate 13 false }

/-- The end of an event: what was raised is placed or latched in ascending order of kind (R188); during initialisation no notice is
raised (R195). -/
def State.settle (s : State) : State :=
  if s.control.notReady then s.clearRaised else (NoticeKind.all.foldl State.settleKind s).clearRaised

/-- The end of an event that may have given the link something to do: a request that finds the link IDLE is taken at once (R127). Where one
event makes several requests, all are queued first and the arbiter then chooses among them, the urgent queue first (DESIGN CHOICE,
log 39). -/
def State.settleLink (s : State) : State := s.kickLink.settle

/-- The lowest-numbered latched kind of which no notice is in the queue (R189). -/
def Control.nextLatched (c : Control) : Option NoticeKind :=
  NoticeKind.all.find? fun k => c.latched[k.number] && !c.holds k

/-- A message has been read whole: it leaves the queue and at most one latched notice is placed (R189). -/
def State.messageRead (s : State) : State :=
  let s := s.setControl { s.control with outgoing := s.control.outgoing.tail, segmentsDone := 0 }
  match s.control.nextLatched with
  | none => s
  | some k => s.place k

end Sys2Proof.Machine
end

