-- ==== Sys2Proof/Machine/ControlCmds.lean ====
section
/-! DEFINITION. The meanings of the control port's own rows: resets, transfers, the unknown kind, SYS.RESET, NOTE.MASK, the group
timer (chapter 11). -/

namespace Sys2Proof.Machine

/-- A meaning that answers a next state. -/
abbrev Answer := Host.Outcome State Fault Refusal

/-- A bit at position `n` of the status byte. -/
def statusBit (b : Bool) (n : Nat) : Byte := if b then 1#8 <<< n else 0

/-- The status byte (11.1). -/
def State.statusByte (s : State) : Byte :=
  statusBit s.control.notReady 7 ||| statusBit s.attention 6 ||| statusBit s.control.dropped 5 |||
  BitVec.ofNat 8 (Config.commandPlaces - s.control.commands.length)

/-- A transfer begins: the status byte is returned, and COMMAND_DROPPED with it is cleared (R184). `out` is what the part sends after
it. -/
def State.transfer (s : State) (out : List Byte) : State :=
  { s.setControl { s.control with dropped := false } with dataOut := s.statusByte :: out }

/-- HARD_RESET: every block at its hard-reset values, initialisation begun (R195). -/
def execHardReset (s : State) : Answer :=
  .next { State.reset with pending := s.pending, now := s.now, freeCount := s.freeCount }

/-- START is placed (R195). -/
def State.placeStart (s : State) (soft : Bool) (discarded : Nat) : State :=
  s.pushMessage { kind := NoticeKind.byte .start, tag := 0, payload := startData soft discarded }

/-- INITIALISATION_END (R195). -/
def execInitialisationEnd (s : State) : Answer :=
  .next (if s.control.notReady then
    let s := s.placeStart false 0
    s.setControl { s.control with notReady := false }
  else s)

/-- STATUS_TRANSFER (R184). -/
def execStatusTransfer (s : State) : Answer := .next (s.transfer [])

/-- The command queue takes a frame, or it is discarded with COMMAND_DROPPED set (R185). -/
def State.takeFrame (s : State) (frame : Option Command) : State :=
  match frame with
  | none => s.setControl { s.control with dropped := true }
  | some c =>
    if s.control.notReady || Config.commandPlaces ≤ s.control.commands.length || !s.control.hasRoom then
      s.setControl { s.control with dropped := true }
    else s.setControl { s.control with commands := s.control.commands ++ [c] }

/-- WRITE_TRANSFER (R184, R185): the part sends filler bytes of 0. -/
def execWriteTransfer (bytes : List Byte) (s : State) : Answer :=
  .next ((s.transfer (List.replicate bytes.length 0)).takeFrame (frameOf bytes))

/-- The segment at the head of the outgoing queue, or a length byte of 0 (R184). -/
def State.headSegment (s : State) : List Byte :=
  match s.control.outgoing with
  | [] => [0]
  | m :: _ => m.segment s.control.segmentsDone

/-- `n` bytes that no rule gives: free values (log 8). -/
def State.unstated (s : State) (n : Nat) : List Byte := (List.range n).map fun i => Config.unstatedByte (s.freeCount + i)

/-- The head segment has been clocked out whole (R184, R189). -/
def State.segmentRead (s : State) : State :=
  match s.control.outgoing with
  | [] => s
  | m :: _ =>
    if s.control.segmentsDone + 1 < m.segments then s.setControl { s.control with segmentsDone := s.control.segmentsDone + 1 }
    else s.messageRead

/-- READ_TRANSFER of `clocked` bytes after the status byte (R184, R189). -/
def execReadTransfer (clocked : Nat) (s : State) : Answer :=
  let seg := s.headSegment
  let extra := clocked - seg.length
  let s := { s.transfer (seg.take clocked ++ s.unstated extra) with freeCount := s.freeCount + extra }
  .next (if seg.length ≤ clocked then s.segmentRead else s)

/-- OTHER_TRANSFER (R184): what follows the status byte is not given. -/
def execOtherTransfer (first : Byte) (clocked : Nat) (s : State) : Answer :=
  .next (if 3 ≤ first.toNat then { s.transfer (s.unstated clocked) with freeCount := s.freeCount + clocked } else s)

/-- UNKNOWN_COMMAND_KIND (R187). -/
def execUnknownCommandKind (s : State) : Answer :=
  .next (match s.control.commands with
    | [] => s
    | c :: rest =>
      if (kindLength c.kind.toNat).isNone then (s.setControl { s.control with commands := rest }).answer c .badFormat else s)

/-- The ABORTED replies a soft reset places, in the order their commands were taken; an enumeration carries its counts (R196), and an
operation of the tuner no data, a scan included (DESIGN CHOICE, log 6). -/
def State.abortedReplies (s : State) : List Message :=
  s.control.longOps.map fun o =>
    replyTo o.command o.tag .aborted
      (match o.kind with
       | .tuner => []
       | .enumeration => s.link.enumRun.elim (enumCounts 0 0) fun r =>
           if r.origin = .host then enumCounts r.assigned r.failed else enumCounts 0 0)

/-- SYS.RESET (R196): the command has left the queue, `s.control.commands` are those behind it. -/
def State.softReset (s : State) : State :=
  let r := State.reset
  ({ r with
    pending := s.pending, now := s.now, freeCount := s.freeCount, dataOut := s.dataOut,
    stationMemory := { s.stationMemory with lockMode := false },
    control := { Control.reset with notReady := false, outgoing := s.abortedReplies } }).placeStart true s.control.commands.length

/-- SYS_RESET (R196). -/
def execSysReset (s : State) : Answer := .next (s.execute 0x01 fun s _ => s.softReset).settle

/-- The mask bits of kinds 1..12: bit k − 1 stands for kind k (R186, R190). -/
def maskBits (mask : Nat) : Vector Bool 13 :=
  NoticeKind.all.foldl (fun v k => v.set k.number (k == .start || mask.testBit (k.number.val - 1))) (Vector.replicate 13 true)

/-- NOTE.MASK writes the mask bits and clears the latches of masked kinds (R190). -/
def State.setMask (s : State) (mask : Nat) : State :=
  s.setControl { s.control with
    enabled := maskBits mask
    latched := NoticeKind.all.foldl (fun v k => if (maskBits mask)[k.number] then v else v.set k.number false) s.control.latched }

/-- NOTE_MASK (R190). -/
def execNoteMask (s : State) : Answer :=
  .next (s.execute 0x02 fun s c => (s.setMask (uField c.payload 0 2)).answer c .ok).settle

/-- GROUP_TIMER_EXPIRY (R194). -/
def execGroupTimerExpiry (s : State) : Answer :=
  .next (match s.control.group with
    | none => s
    | some g => ((s.reach g.since Config.groupMs).expireGroup g).settle)

end Sys2Proof.Machine
end

