-- ==== Sys2Proof/Machine/LinkCmds.lean ====
section
/-! DEFINITION. The meanings of the amplifier link's rows (R120 to R137). -/

namespace Sys2Proof.Machine

/-! ## Commands -/

/-- The link leaves HELD: one broadcast release, then an enumeration of origin START (R120). The release has no exchange of its own; a stall
that strikes it counts as one of the first round (DESIGN CHOICE, log 68). -/
def State.startLink (s : State) (accept : Bool) : State :=
  ((s.updLink fun l => { l with accept := accept, lastAssign := some (none, 0) }).beginEnum .start).raise .link

/-- LINK.START (R120); the policies are ACCEPT, REFUSE in order. -/
def State.linkStart (s : State) (c : Command) : State :=
  match wordField (uField c.payload 0 1) with
  | none => s.answer c .badValue
  | some accept =>
    (if s.link.exchange = .held then s.startLink accept else s.updLink fun l => { l with accept := accept }).answer c .ok

/-- LINK_START (R120). -/
def execLinkStart (s : State) : Answer := .next (s.execute 0x50 State.linkStart).settleLink

/-- An enumeration of origin START or HOST is pending or in flight (R122). -/
def Link.enumerates (l : Link) : Bool := l.enumPending.isSome || l.enumRun.any fun r => r.origin != .join

/-- LINK.ENUM (R122). -/
def State.linkEnum (s : State) (c : Command) : State :=
  if s.link.exchange = .held ∨ s.link.enumerates then s.answer c .notNow
  else (s.holdReply .enumeration c).updLink fun l => { l with enumPending := some .host, joinPending := false }

/-- LINK_ENUM (R122). -/
def execLinkEnum (s : State) : Answer := .next (s.execute 0x51 State.linkEnum).settleLink

/-- An enumeration of origin HOST is ended with its counts by LINK.RESET (R121, step 2). -/
def State.abortEnum (s : State) : State :=
  match s.link.enumRun with
  | some r => s.replyLong .enumeration .aborted (if r.origin = .host then enumCounts r.assigned r.failed else enumCounts 0 0)
  | none => s.replyLong .enumeration .aborted (enumCounts 0 0)

/-- The slots on amplifier channels, whose destinations are now missing (R103, R121). -/
def State.modulesRemoved (s : State) : State :=
  allSlots.foldl (fun s i => match (s.slot i).assigned with
    | some { dest := .amp _ _, .. } => (s.setSlot i { s.slot i with reduction := 0 }).redecide i
    | _ => s) s

/-- LINK.RESET outside HELD (R121). -/
def State.resetLink (s : State) : State :=
  let s := s.abortEnum
  let filled := allEntries.filter fun k => (s.entry k).isSome
  let s := s.updLink fun l => { Link.reset with accept := l.accept, lastResult := l.lastResult, lastAssign := l.lastAssign, lastAck := l.lastAck, changed := l.changed }
  let s := filled.foldl State.markEntry s
  (s.protRemoveAll.modulesRemoved).raise .link

/-- LINK.RESET (R121). The ABORTED reply of a host's enumeration stands before the command's own (DESIGN CHOICE, log 50). -/
def State.linkReset (s : State) (c : Command) : State :=
  (if s.link.exchange = .held then s else s.resetLink).answer c .ok

/-- LINK_RESET (R121). -/
def execLinkReset (s : State) : Answer := .next (s.execute 0x52 State.linkReset).settleLink

def encFaultBits (b : FaultBits) : List Byte := encFlag b.tempWarn ++ encFlag b.tempShut ++ encFlag b.overcurrent ++ encFlag b.dcFault

def encTxn (t : Txn) : List Byte := enc6 t.identity ++ enc1 t.kind.ctorIdx

/-- The time since the last poll expiry of an entry: of the running timer while PRESENT, going on while ABSENT (R137, log 40). -/
def State.sincePoll (s : State) (e : Entry) : Nat :=
  if e.presence = .present then s.elapsed e.polled Config.pollMs else s.now - e.polled

/-- A filled entry as LINK.QUERY reports it (R137). -/
def State.encEntryStatus (s : State) (e : Entry) : List Byte :=
  encEntry e ++ enc4 (s.sincePoll e) ++ encFlag e.supplyLow ++ encOpt encInt1 e.temperature ++
  encList encFaultBits e.faults

/-- What LINK.QUERY reports (R137). The pending marks stand in the order in which they became marks (DESIGN CHOICE, log 6). -/
def State.linkData (s : State) : List Byte :=
  let l := s.link
  enc1 l.state.ctorIdx ++ encPolicy l.accept ++ encOpt encOrigin l.enumPending ++ encOpt (fun (r : EnumRun) => encOrigin r.origin) l.enumRun ++
  encFlag l.joinPending ++ encFlag l.stuck ++ encOpt encEnumResult l.lastResult ++
  enc2 l.counters.completed ++ enc2 l.counters.naks ++ enc2 l.counters.stalls ++ enc2 l.counters.discarded ++ enc2 l.counters.roundsFailed ++
  encList s.encEntryStatus (allEntries.filterMap s.entry) ++
  encList encTxn l.urgent ++ encList encTxn l.ordinary ++ encList encTxn l.marks

/-- LINK_QUERY (R137). -/
def execLinkQuery (s : State) : Answer := .next (s.execute 0x53 fun s c => s.reply c .ok s.linkData).settle

/-! ## Transactions and recovery -/

/-- TRANSACTION_COMPLETE (R128, R132, R133). -/
def execTransactionComplete (r : LinkResult) (s : State) : Answer :=
  .next (match s.link.exchange, r with
    | .txn t again, .acknowledged reply => (s.txnAcknowledged t again reply).settleLink
    | .txn t again, .notAcknowledged => (s.txnRefused t again).settleLink
    | _, _ => s)

/-- ABSENT_RELEASE_ASSIGN (R130, step 6). -/
def execAbsentReleaseAssign (s : State) : Answer :=
  .next (match s.link.exchange with
    | .release id => ((s.updLink fun l => { l with lastAssign := some (some id, 0) }).openWindow).settleLink
    | _ => s)

/-- A stall: the exchange it interrupts ends, and the line is free after the recovery or stuck (R129). The miss of a stalled transaction is
charged here, before the line is free; a stalled round fails once it is (R123, log 42). -/
def State.stall (s : State) (freed : Bool) : State :=
  let round := s.link.exchange.inRound
  let s := s.countLink fun c => { c with stalls := count16 c.stalls }
  let r := s.stallEnds
  if freed then r.1.lineFreed r.2 round
  else (r.1.updLink fun l => { l with exchange := .recovery r.2 round, stuck := true }).raise .link

/-- LINK_STALL (R129). -/
def execLinkStall (freed : Bool) (s : State) : Answer :=
  .next (if s.link.exchange.inFlight then (s.stall freed).settleLink else s)

/-- A repeat of the recovery (R129). -/
def State.recoveryRepeat (s : State) (owed : Option Identity) (round freed : Bool) : State :=
  if freed then ((s.updLink fun l => { l with stuck := false }).raise .link).lineFreed owed round
  else s.countLink fun c => { c with stalls := count16 c.stalls }

/-- STALL_RECOVERY_REPEAT, 2 ms after the one before (R129). -/
def execStallRecoveryRepeat (freed : Bool) (s : State) : Answer :=
  .next (match s.link.exchange with
    | .recovery owed round => ((s.reach s.now Config.recoveryMs).recoveryRepeat owed round freed).settleLink
    | _ => s)

/-- A poll timer reaches 100 ms: it restarts and READ_STATUS is requested (R131). -/
def State.pollEnds (s : State) (k : EntryId) (e : Entry) : State :=
  let s := s.reach e.polled Config.pollMs
  (s.setEntry k (some { e with polled := s.now })).request e.identity .readStatus 0

/-- POLL_TIMER_EXPIRY of a PRESENT module (R131). -/
def execPollTimerExpiry (k : EntryId) (s : State) : Answer :=
  .next (match s.entry k with
    | none => s
    | some e => if e.presence = .present then (s.pollEnds k e).settleLink else s)

/-! ## Requests from modules -/

/-- The lowest of the addresses that arbitrate (R134). -/
def lowestAddress (a : BitVec 3) (rest : List (BitVec 3)) : BitVec 3 := rest.foldl (fun m x => if x.toNat < m.toNat then x else m) a

/-- REQUEST_WINDOW (R127, R134). -/
def execRequestWindow (addresses : List (BitVec 3)) (s : State) : Answer :=
  .next (if s.link.exchange = .window ∨ s.link.exchange = .idle then
    (match addresses with
     | a :: rest => s.setExchange (.request (lowestAddress a rest))
     | [] => if s.link.exchange = Exchange.window then s.afterWindow else s).settleLink
  else s)

/-- The PRESENT entry that holds an address (R134). -/
def State.entryAt (s : State) (a : Nat) : Option (EntryId × Entry) :=
  allEntries.findSome? fun k => (s.entry k).bind fun e => if e.presence = .present ∧ e.address = a then some (k, e) else none

/-- A FAULT request's effect on the last status (R134). -/
def Entry.faultRequest (e : Entry) (k : FaultKind) (mask : Byte) (value : Int) : Entry :=
  let onMask := fun (f : FaultBits → FaultBits) =>
    { e with faults := e.faults.zipIdx.map fun q => if inMask mask (q.2 + 1) then f q.1 else q.1 }
  match k with
  | .tempWarn => { onMask (fun b => { b with tempWarn := true }) with temperature := some value }
  | .tempShut => { onMask (fun b => { b with tempShut := true }) with temperature := some value }
  | .overcurrent => onMask fun b => { b with overcurrent := true }
  | .dcFault => onMask fun b => { b with dcFault := true }
  | .supplyLow => { e with supplyLow := true }
  | .supplyOk => { e with supplyLow := false }
  | .clear => onMask fun _ => .clear

/-- The bits of a mask that name channels within a count (R134). -/
def withinCount (mask : Byte) (n : Nat) : Byte := channelMask ((List.range' 1 n).filter (inMask mask))

/-- Whether the part acknowledges a module's request (R134, R135). -/
def State.acknowledge (s : State) (ack : Bool) : State := s.updLink fun l => { l with lastAck := some ack }

/-- A request that is discarded (R134). -/
def State.discardRequest (s : State) : State := s.countLink fun c => { c with discarded := count16 c.discarded }

/-- A FAULT request of the module at address `a` (R134): acknowledged when a PRESENT entry holds the address, whatever its payload. -/
def State.takeFault (s : State) (a : BitVec 3) (fault mask value : Byte) : State :=
  match s.entryAt a.toNat, FaultKind.ofCode fault with
  | some (k, e), some f =>
    let m := withinCount mask e.faults.length
    let s := s.acknowledge true
    if f.onChannels && m == 0 then s.discardRequest
    else (s.setEntry k (some (e.faultRequest f m value.toInt))).faultReport k e.identity [(f, m)] value.toInt
  | some _, none => (s.acknowledge true).discardRequest
  | none, _ => (s.acknowledge false).discardRequest

/-- FAULT_REQUEST: the request exchange whose kind byte is not JOIN (R134). -/
def execFaultRequest (kind fault mask value : Byte) (s : State) : Answer :=
  .next (match s.link.exchange with
    | .request a =>
      if kind = 2 then s
      else ((if kind = 1 then s.takeFault a fault mask value else (s.acknowledge false).discardRequest).afterWindow).settleLink
    | _ => s)

/-- A JOIN request (R135): acknowledged when the policy is ACCEPT and no enumeration is in flight; join pending is set when the policy is
ACCEPT. -/
def State.takeJoin (s : State) : State :=
  (s.acknowledge (s.link.accept && s.link.enumRun.isNone)).updLink fun l => { l with joinPending := l.joinPending || l.accept }

/-- JOIN_REQUEST (R135). -/
def execJoinRequest (s : State) : Answer :=
  .next (match s.link.exchange with
    | .request _ => (s.takeJoin.afterWindow).settleLink
    | _ => s)

/-! ## Rounds (R123) -/

/-- The 48 ones that no module sends (R123). -/
def noIdentity : Identity := BitVec.allOnes 48

/-- What the identity read leads to (R123, steps 2 and 3). -/
def State.identityRead (s : State) (id : Identity) : State :=
  if id = noIdentity then (s.endEnum .noResponse false).openWindow
  else
    match s.decideWinner id with
    | some w => s.setExchange (.assign w false)
    | none => (s.endEnum .tableFull false).openWindow

/-- IDENTITY_RESPONSE (R123). -/
def execIdentityResponse (id : Identity) (s : State) : Answer :=
  .next (if s.link.exchange = .call then (s.identityRead id).settleLink else s)

/-- ASSIGN_COMPLETE (R123, step 4). -/
def execAssignComplete (acknowledged : Bool) (s : State) : Answer :=
  .next (match s.link.exchange with
    | .assign w again =>
      (if acknowledged then s.setExchange (.desc w false)
       else if again then s.roundFailed.openWindow
       else s.setExchange (.assign w true)).settleLink
    | _ => s)

/-- A round's READ_DESC ends (R123, step 5; R124). The ASSIGN with address 0 after a second failure is sent once and awaits no acknowledge
(DESIGN CHOICE, log 49). The READ_DESC adds to neither the transactions completed nor the negative acknowledges of R128 (DESIGN CHOICE, log 62). -/
def State.roundDesc (s : State) (w : Winner) (again : Bool) (reply : Option Byte) : State :=
  match reply.bind fun b => descCount [b] with
  | some n => ((s.modulePresent w n).roundDone true).openWindow
  | none =>
    if again then
      let s := s.roundFailed
      (s.updLink fun l => { l with lastAssign := some (some w.identity, 0) }).openWindow
    else s.setExchange (.desc w true)

/-- ROUND_READ_DESC (R123, R124). -/
def execRoundReadDesc (reply : Option Byte) (s : State) : Answer :=
  .next (match s.link.exchange with
    | .desc w again => (s.roundDesc w again reply).settleLink
    | _ => s)

end Sys2Proof.Machine
end

