-- ==== Sys2Proof/Machine/PortEvents.lean ====
section
/-! DEFINITION. The meanings of the input receivers' rows (R3, R4, R8 to R10). -/

namespace Sys2Proof.Machine

/-- CLOCK_SEEN (R3). -/
def execClockSeen (p : PortId) (s : State) : Answer :=
  .next (if p.watched ∧ (s.port p).state = .noSignal then (s.updPort p fun x => { x with state := .locking }).settle else s)

/-- RATE_RECOGNITION_CHANGE in LOCKING (R3). -/
def execRateRecognitionChange (p : PortId) (measured : Nat) (s : State) : Answer :=
  .next (if p.watched ∧ (s.port p).state = .locking then
    (s.updPort p fun x => x.recognise s.now (recognisedRate measured)).settle else s)

/-- STABILITY_TIMER_EXPIRY (R3). -/
def execStabilityTimerExpiry (p : PortId) (s : State) : Answer :=
  .next (match (s.port p).state, (s.port p).stability with
    | .locking, some (r, t) => ((s.reach t Config.stabilityMs).updPort p fun x => x.lock r).settle
    | _, _ => s)

/-- CLOCK_LOST (R4). -/
def execClockLost (p : PortId) (s : State) : Answer :=
  .next (if p.watched ∧ ((s.port p).state = .locking ∨ (s.port p).state = .locked) then (s.updPort p fun _ => .noSignal).settle else s)

/-- RATE_CHANGE of a LOCKED port: the measured rate is no longer within 0.2 % of the locked rate (R4). -/
def execRateChange (p : PortId) (measured : Nat) (s : State) : Answer :=
  .next (if p.watched ∧ (s.port p).state = .locked ∧ recognisedRate measured ≠ (s.port p).rate then
    (s.updPort p fun x => x.rateChanged s.now (recognisedRate measured)).settle else s)

/-- WORD_TAKEN (R1, R8, R9, R41). -/
def execWordTaken (p : PortId) (w : InputWord) (s : State) : Answer :=
  .next (if p.watched ∧ (s.port p).state = .locked then (s.takeWord p (takenWord w)).settle else s)

/-- The next word, not a sighting, takes the count to 4,096 (R9). -/
def Port.atLimit (x : Port) (w : TWord) : Bool := x.count + 1 == Config.sightingLimit && !x.sights w

/-- WORD_COUNT_LIMIT: the word that takes the count to 4,096 (R9, log 13). -/
def execWordCountLimit (p : PortId) (w : InputWord) (s : State) : Answer :=
  .next (if p.watched ∧ (s.port p).state = .locked ∧ (s.port p).atLimit (takenWord w) then (s.takeWord p (takenWord w)).settle else s)

/-- CHANNEL_STATUS_BLOCK of a biphase port that receives its stream (R10). -/
def execChannelStatusBlock (p : PortId) (nonAudio : Bool) (s : State) : Answer :=
  .next (if p.biphase ∧ ((s.port p).state = .locking ∨ (s.port p).state = .locked) then
    (s.updPort p fun x => x.channelStatus nonAudio).settle else s)

end Sys2Proof.Machine
end

