-- ==== Sys2Proof/Machine/ProtCmds.lean ====
section
/-! DEFINITION. The meanings of PROT.RESET, PROT.QUERY and the hold-off timer (R145, R149, R150). -/

namespace Sys2Proof.Machine

/-- The entry and the protection module of an identity that has records. -/
def State.protHeld (s : State) (id : Identity) : Option (EntryId × ProtModule) :=
  (s.entryOf id).bind fun k => (s.protModule k).map fun m => (k, m)

/-- The four fault bits of a channel in the last status are set to 0 (R149). -/
def Entry.clearChannel (e : Entry) (ch : Nat) : Entry := { e with faults := e.faults.set (ch - 1) .clear }

/-- PROT.RESET of a LATCHED channel (R149). -/
def State.resetChannel (s : State) (k : EntryId) (id : Identity) (m : ProtModule) (ch : Nat) : State :=
  let present := (s.presentEntry id).isSome
  let s := if present then
      (s.setEntry k ((s.entry k).map fun e => e.clearChannel ch)).request id .clearFault (channelMask [ch])
    else s
  s.protCommit k id m { m with records := mapChannels (· == ch) (ProtRecord.reset present) 1 m.records } false

/-- PROT.RESET (R149). -/
def State.protReset (s : State) (c : Command) : State :=
  let id := idField c.payload 0
  let ch := uField c.payload 6 1
  match s.protHeld id with
  | none => s.answer c .badValue
  | some (k, m) =>
    match (if ch = 0 then none else m.records[ch - 1]?) with
    | none => s.answer c .badValue
    | some r => if r.state = .latched then (s.resetChannel k id m ch).answer c .ok else s.answer c .notNow

/-- PROT_RESET (R149). -/
def execProtReset (s : State) : Answer := .next (s.execute 0x58 State.protReset).settleLink

/-- One channel of PROT.QUERY (R150). The time since the window began is sent modulo 2^32 (DESIGN CHOICE, log 6). -/
def State.encProtRecord (s : State) (id : Identity) (m : ProtModule) (q : ProtRecord × Nat) : List Byte :=
  let r := q.1
  enc1 r.state.ctorIdx ++ enc1 r.cause.ctorIdx ++ enc2 r.reduction ++ enc2 (effectiveReduction m.supplyLow r) ++ encFlag r.muted ++
  enc1 r.count ++ encOpt enc4 (if r.count = 0 then none else some (s.now - r.windowStart)) ++
  encOpt (fun t => enc4 (Config.holdOffMs - s.elapsed t Config.holdOffMs)) r.holdOff ++ encIndex (s.slotAt (.amp id (q.2 + 1)))

/-- What PROT.QUERY reports (R150): the mute mask in one byte, bit k − 1 for channel k (DESIGN CHOICE, log 6). -/
def State.protData (s : State) (id : Identity) (m : ProtModule) : List Byte :=
  encFlag m.supplyLow ++ [m.muteMask] ++ encOpt encInt1 m.temperature ++ encList (s.encProtRecord id m) m.records.zipIdx

/-- PROT_QUERY (R150). -/
def execProtQuery (s : State) : Answer :=
  .next (s.execute 0x59 fun s c =>
    match s.protHeld (idField c.payload 0) with
    | none => s.answer c .badValue
    | some (_, m) => s.reply c .ok (s.protData (idField c.payload 0) m)).settle

/-- The hold-off timer of channel `ch` of entry `k`'s module reaches 3 s (R145). -/
def State.holdOffEnds (s : State) (k : EntryId) (id : Identity) (m : ProtModule) (ch : Nat) : State :=
  s.protCommit k id m { m with records := mapChannels (· == ch) ProtRecord.recover 1 m.records } false

/-- HOLDOFF_EXPIRY (R145); `ch` counts from 0. -/
def execHoldoffExpiry (k : EntryId) (ch : Fin 8) (s : State) : Answer :=
  .next (match s.entry k, s.protModule k with
    | some e, some m =>
      match (m.records[ch.val]?).bind (·.holdOff) with
      | some t => ((s.reach t Config.holdOffMs).holdOffEnds k e.identity m (ch.val + 1)).settleLink
      | none => s
    | _, _ => s)

end Sys2Proof.Machine
end

