-- ==== Sys2Proof/Machine/Audio.lean ====
section
/-! DEFINITION. One sample period of a zone and of its slots, block boundaries, the end of a ramp-out, span boundaries
(R54, R55, R63 to R82). -/

namespace Sys2Proof.Machine

/-! ## Stages 1 to 3 (R64, R68, R69) -/

/-- The converted samples of one sample period (R64): from the port's words for PCM, from the decoder's samples otherwise. -/
def State.programSamples (s : State) (z : ZoneId) (words : List TWord) : List Int :=
  let zn := s.zone z
  match zn.decoder with
  | none =>
    let w := zn.source.elim 24 fun e => (s.source e).width
    words.map fun x => convert w (leadingSample w x)
  | some d =>
    let xs := (s.decoder d).samplesAt zn.spanPos
    (List.range (zn.map.elim 0 (·.length))).map fun i => convert 20 (xs.getD i 0)

/-- Every program delay line takes its sample: the values given out, and the lines (R68). -/
def delayAll (d : Nat) (lines : List (List Int)) (xs : List Int) : List Int × List (List Int) :=
  ((lines.zip xs).map fun q => (delayStep d q.1 q.2).1, (lines.zip xs).map fun q => (delayStep d q.1 q.2).2)

/-- acc of output role `j` (R69). -/
def Zone.acc (z : Zone) (delayed : List Int) (j : Role) : Int := rowSum ((z.matrix.elim [] fun m => m.row j)) delayed

/-- The program gain of a zone in this sample period: 0 for PCM (R49, R70). -/
def State.zoneGain (s : State) (z : ZoneId) : Int :=
  (s.zone z).decoder.elim 0 fun d => (s.decoder d).programGain (s.zone z).active.dynamicGain (s.zone z).spanPos

/-! ## Stages 4 to 8 (R70 to R80) -/

/-- The set a slot's section uses, out of the two in force. -/
def Active.set (a : Active) : XoverUse → Option XoverSet
  | .bypass => none
  | .high => some a.high
  | .low => some a.low

/-- The level stage (R70 to R72): the saturated value, and whether saturation changed it. -/
def Slot.level (x : Slot) (a : Active) (acc gain : Int) : Int × Bool :=
  let y := levelScale acc (levelSum a.volume x.activeTrim a.sourceTrim gain)
  (saturate y, saturates y)

/-- The crossover section (R73, R74): the slot with its state moved on, the value given out, and whether saturation changed it. -/
def Slot.section_ (x : Slot) (c : Option XoverSet) (u0 : Int) : Slot × Int × Bool :=
  match c with
  | none => (x, u0, false)
  | some c =>
    let w := xoverRound (xoverSum c u0 x.u1 x.u2 x.y1 x.y2)
    ({ x with u2 := x.u1, u1 := u0, y2 := x.y1, y1 := saturate w }, saturate w, saturates w)

/-- A slot sends 0 and is not tested against its limit (R80). -/
def Slot.muzzled (x : Slot) : Bool := x.state == .silent || x.state == .shut || x.state == .unassigned

/-- Stages 4 to 8 of a slot in one sample period, given its role's acc and the zone's program gain. -/
def Slot.sample (x : Slot) (a : Active) (acc gain : Int) : Slot :=
  let lv := x.level a acc gain
  let sec := x.section_ (a.set x.activeSet) lv.1
  let del := delayStep x.delay x.line sec.2.1
  let g := rampStep x.g x.target
  let y := rampScale del.1 g
  let lim := limitOf (limitSteps x.activeLimit x.reduction)
  let x := { sec.1 with line := del.2, g := g, word := if x.muzzled then 0 else limitWord lim y }
  x.withFlags (lv.2 || sec.2.2) (!x.muzzled && limitClamps lim y)

/-- A slot of zone `z` takes its sample; a flag that rises raises CLIP (R82). -/
def State.slotSample (z : ZoneId) (accOf : Role → Int) (gain : Int) (s : State) (i : SlotId) : State :=
  match (s.slot i).assigned with
  | none => s
  | some a =>
    let x := s.slot i
    let x' := x.sample (s.zone z).active (accOf a.role) gain
    let s := s.setSlot i x'
    if x.flagRises x' then s.markClip i else s

/-! ## The events -/

/-- A zone may run a sample period now: it runs its stages, its block has periods left, or it waits inside a span for its first
block (R63, log 12); `words` is what its port brings. -/
def State.samplePeriodDue (s : State) (z : ZoneId) (words : List TWord) : Bool :=
  let zn := s.zone z
  let playing := zn.state == .running
  zn.runsStages &&
  (match zn.blockPos with
   | some k => k < Config.blockLength
   | none => playing && zn.decoder.isSome && zn.spanPos % Config.blockLength != 0) &&
  (!playing ||
    (if zn.decoder.isSome then zn.spanPos < Config.spanLength else words.length == zn.map.elim 0 (·.length)))

/-- The position of a decoder's span that a user has reached. -/
def State.reachSpan (s : State) (z : ZoneId) : State :=
  match (s.zone z).decoder with
  | none => s
  | some d => s.updDecoder d fun x => { x with playPos := max x.playPos (s.zone z).spanPos }

/-- One sample period of a zone (R63): stages 1 to 3 while it is RUNNING, acc = 0 during a ramp-out (R79), then stages 4 to 8 of its
slots. -/
def State.samplePeriod (s : State) (z : ZoneId) (words : List TWord) : State :=
  let zn := s.zone z
  let next := fun (x : Zone) => { x with blockPos := x.blockPos.map (· + 1) }
  if zn.state = .running then
    let out := delayAll zn.delay zn.lines (s.programSamples z words)
    let s := (s.slotsOf z).foldl (State.slotSample z (zn.acc out.1) (s.zoneGain z)) s
    let s := s.updZone z fun x =>
      { next x with lines := out.2, spanPos := if x.decoder.isSome then x.spanPos + 1 else x.spanPos }
    s.reachSpan z
  else ((s.slotsOf z).foldl (State.slotSample z (fun _ => 0) 0) s).updZone z next

/-- A zone's next block may begin now (R63, log 12). -/
def State.blockDue (s : State) (z : ZoneId) : Bool :=
  let zn := s.zone z
  let packed := zn.state == .running && zn.decoder.isSome
  zn.runsStages &&
  (match zn.blockPos with
   | some k => k == Config.blockLength && !(packed && zn.spanPos == Config.spanLength)
   | none => packed && zn.spanPos % Config.blockLength == 0 && zn.spanPos < Config.spanLength)

/-- A zone starts a new processing block (R63). -/
def State.blockBoundary (s : State) (z : ZoneId) : State :=
  if (s.zone z).state = .running then s.beginBlock z else s.beginRampBlock z

/-- The ramp-out of a departed zone has ended: every slot of it has g = 0 (R79). -/
def State.rampOutDone (s : State) (z : ZoneId) : Bool :=
  (s.zone z).rampOut && (s.zone z).state != .running && (s.slotsOf z).all fun i => (s.slot i).g == 0

/-- A zone stops running its stages, and its slots become SILENT (R79, R103). -/
def State.endRampOut (s : State) (z : ZoneId) : State :=
  (s.updZone z fun x => { x with rampOut := false, blockPos := none }).redecideAll (s.slotsOf z)

/-- What a span boundary of its decoder does to a RUNNING user (R21, R55, R95): the span starts anew and a block with it; a fold
change or a map change of the same channel count has the matrix derived again at that boundary; another channel count takes the zone
through ACQUIRING and back to RUNNING at once. `remapped` is the current header where its map has changed. -/
def State.userSpan (d : DecoderId) (remapped : Option Header) (folds : Bool) (s : State) (z : ZoneId) : State :=
  if (s.zone z).decoder = some d ∧ (s.zone z).state = .running then
    let s := s.updZone z fun x =>
      { x with spanPos := 0, blockPos := x.blockPos.map fun _ => Config.blockLength,
               deriveDue := x.deriveDue || folds || remapped.isSome }
    match remapped with
    | none => s
    | some h =>
      if (s.zone z).map.map (·.length) = some h.map.length then s.updZone z fun x => { x with map := some h.map }
      else s.restartOn z h
  else s

/-- A span boundary of a decoder whose play clock runs (R54, R55, R61); its users take it in order of their numbers (log 53). -/
def State.spanBoundary (s : State) (d : DecoderId) : State :=
  let old := s.decoder d
  let s := s.updDecoder d (·.nextSpan)
  let new := s.decoder d
  let remapped := if old.header.map (·.map) = new.header.map (·.map) then none else new.header
  let s := if remapped.isSome || levelsDiffer old.metadata new.metadata then s.markFormat d else s
  allZones.foldl (State.userSpan d remapped (foldsDiffer old.metadata new.metadata)) s

end Sys2Proof.Machine
end

