-- ==== Sys2Proof/Machine/ZoneCmds.lean ====
section
/-! DEFINITION. The meanings of the zone commands that are not render commands, of ZONE.QUERY, of the hold timer and of DEC.QUERY (R29
to R40, R59). -/

namespace Sys2Proof.Machine

/-- The zone a command names in its first byte. -/
def Command.zone (c : Command) : Option ZoneId := toFin? 3 (uField c.payload 0 1)

/-- ZONE.POWER (R29). -/
def State.zonePower (s : State) (c : Command) : State :=
  match c.zone, wordField (uField c.payload 1 1) with
  | some z, some on => (if on then s.powerOn z else s.powerOff z).answer c .ok
  | _, _ => s.answer c .badValue

/-- ZONE_POWER (R29). -/
def execZonePower (s : State) : Answer := .next (s.execute 0x20 State.zonePower).settle

/-- A source, if any, names a disabled entry. -/
def State.sourceDisabled (s : State) (src : Option SourceId) : Bool := src.any fun e => !(s.source e).enabled

/-- ZONE.SOURCE (R30). A zone out of range is refused before the entry the source names is looked at (DESIGN CHOICE, log 61). -/
def State.zoneSource (s : State) (c : Command) : State :=
  match c.zone, sourceField (uField c.payload 1 1) with
  | some z, some src => if s.sourceDisabled src then s.answer c .notNow else (s.selectSource z src).answer c .ok
  | _, _ => s.answer c .badValue

/-- ZONE_SOURCE (R30). -/
def execZoneSource (s : State) : Answer := .next (s.execute 0x21 State.zoneSource).settle

/-- A new maximum lowers the volume in force and a staged one (R32). -/
def Zone.setMaximum (x : Zone) (m : Int) : Zone :=
  { x with maxVolume := m, volume := min x.volume m, staged := { x.staged with volume := x.staged.volume.map (min · m) } }

/-- ZONE.MAXVOL (R32). -/
def State.zoneMaxvol (s : State) (c : Command) : State :=
  match c.zone with
  | some z =>
    let v := sField c.payload 1 2
    let m := clamp (-160) 24 v
    (s.updZone z fun x => x.setMaximum m).reply c (.ofClamp (m != v)) (encInt2 m)
  | none => s.answer c .badValue

/-- ZONE_MAXVOL (R32). -/
def execZoneMaxvol (s : State) : Answer := .next (s.execute 0x23 State.zoneMaxvol).settle

/-- ZONE.PUSH (R34). -/
def State.zonePush (s : State) (c : Command) : State :=
  match c.zone, sourceField (uField c.payload 1 1) with
  | some z, some src =>
    let zn := s.zone z
    if !zn.powered || Config.stackPlaces ≤ zn.stack.length || s.sourceDisabled src then s.answer c .notNow
    else
      let v := sField c.payload 2 2
      let applied := zn.clampVolume v
      let s := s.pushContext z .host src v
      if applied = v then s.answer c .ok else s.reply c .clamped (encInt2 applied)
  | _, _ => s.answer c .badValue

/-- ZONE_PUSH (R34). -/
def execZonePush (s : State) : Answer := .next (s.execute 0x25 State.zonePush).settle

/-- ZONE.POP (R35). -/
def State.zonePop (s : State) (c : Command) : State :=
  match c.zone with
  | some z =>
    match (s.zone z).stack with
    | [] => s.answer c .notNow
    | t :: _ =>
      let v := (s.zone z).clampVolume t.volume
      (s.popContext z).reply c (.ofClamp (v != t.volume)) (encIndex t.source ++ encInt2 v ++ encOn t.mute)
  | none => s.answer c .badValue

/-- ZONE_POP (R35). -/
def execZonePop (s : State) : Answer := .next (s.execute 0x26 State.zonePop).settle

/-- A source field that FOLLOW refuses with BAD_VALUE: none, or an entry whose port is not P10 (R36). -/
def State.notTunerSource (s : State) (src : Option SourceId) : Bool := src.all fun e => (s.source e).port != tunerPort

/-- ZONE.ANNOUNCE (R36); the policies are IGNORE, FOLLOW in order. -/
def State.zoneAnnounce (s : State) (c : Command) : State :=
  match c.zone, wordField (uField c.payload 1 1), sourceField (uField c.payload 2 1) with
  | some z, some ignore, some src =>
    if !ignore && s.notTunerSource src then s.answer c .badValue
    else if !ignore && s.sourceDisabled src then s.answer c .notNow
    else
      let v := sField c.payload 3 2
      let applied := clamp (-160) 24 v
      (s.updZone z fun x =>
        { x with policy := if ignore then .ignore else .follow, annSource := src, annVolume := applied }).answer c
          (.ofClamp (applied != v))
  | _, _, _ => s.answer c .badValue

/-- ZONE_ANNOUNCE (R36). -/
def execZoneAnnounce (s : State) : Answer := .next (s.execute 0x27 State.zoneAnnounce).settle

/-- The custom matrix is the matrix in force, and its stored map is the zone's program map (R101). -/
def Zone.customPlays (x : Zone) : Bool := x.matrix.any (·.custom) && x.store.any fun st => x.map == some st.map

/-- A zone is shown as custom inactive (R101). Judged on the zone's record as it stands, also between a change and the block boundary at which
it takes effect (DESIGN CHOICE, log 52). -/
def Zone.customInactive (x : Zone) : Bool := x.matrixMode == .custom && !x.customPlays

def encXover (c : XoverSet) : List Byte :=
  [c.b0, c.b1, c.b2, c.a1, c.a2].flatMap fun v => enc4 (BitVec.ofInt 32 v).toNat

def encRow (r : MatrixRow) : List Byte := encRole r.role ++ r.coefs.flatMap encInt2

/-- A staged MATRIX.LOAD: option, map, rows (log 6). -/
def encLoad (w : MatrixWrite) : List Byte := enc1 (if w.replaces then 0 else 1) ++ encMap w.map ++ encList encRow w.rows

/-- A layout in a reply: the size code of each role in code order; a present LFE is sent as 2, the code of LARGE (DESIGN CHOICE, log 6). -/
def encLayout (l : Layout) : List Byte := (l : Vector Size 12).toList.flatMap fun x => enc1 x.ctorIdx

/-- The staged values of a zone (R39). -/
def encStaged (x : ZoneStaged) : List Byte :=
  encOpt encInt2 x.volume ++ encOpt encOn x.mute ++ encOpt enc2 x.lipsync ++ encOpt encOn x.dynamicGain ++ encOpt encOn x.upmix ++
  encOpt encLayout x.layout ++ encOpt encXover x.high ++ encOpt encXover x.low ++ encList encLoad x.loads ++
  encOpt (fun m => enc1 m.ctorIdx) x.mode

def encStackEntry (t : StackEntry) : List Byte := encIndex t.source ++ encInt2 t.volume ++ encOn t.mute ++ enc1 t.cause.ctorIdx

/-- The place of a zone on the wait list, 1..3, while it waits (R39). -/
def State.waitPlace (s : State) (z : ZoneId) : Option Nat :=
  if z ∈ s.waitList then some (s.waitList.idxOf z + 1) else none

/-- What ZONE.QUERY reports (R39); rate and program channel map are one item that may be absent, the place on the wait list is one byte (DESIGN
CHOICE, log 6). -/
def State.zoneData (s : State) (z : ZoneId) : List Byte :=
  let x := s.zone z
  enc1 x.state.ctorIdx ++ encOpt (fun r => enc1 r.ctorIdx) x.reason ++ encIndex x.source ++
  encOpt (fun (r : RateCode) => encRate r ++ encMap (x.map.getD [])) x.rate ++
  encOpt (fun t => enc4 (Config.holdMs - s.elapsed t Config.holdMs)) x.hold ++
  encInt2 x.volume ++ encInt2 x.maxVolume ++ encOn x.mute ++
  enc2 x.lipsync ++ enc4 x.delay ++ enc4 x.allocation ++
  enc1 x.policy.ctorIdx ++ encIndex x.annSource ++ encInt2 x.annVolume ++
  encOn x.dynamicGain ++ encOn x.upmix ++ enc1 x.matrixMode.ctorIdx ++ encFlag x.customInactive ++
  encIndex x.decoder ++ encOpt enc1 (s.waitPlace z) ++
  encFlag x.delayClamped ++ encFlag x.annMissed ++
  encList encStackEntry x.stack ++ encStaged x.staged

/-- ZONE_QUERY (R39). -/
def execZoneQuery (s : State) : Answer :=
  .next (s.execute 0x2B fun s c =>
    match c.zone with
    | some z => s.reply c .ok (s.zoneData z)
    | none => s.answer c .badValue).settle

/-- The sticky flags of a zone and of its slots are cleared (R40). -/
def State.clearFlags (s : State) (z : ZoneId) : State := (s.updZone z Zone.clearFlags).mapSlots z fun _ x => x.clearFlags

/-- ZONE_FLAGS_CLEAR (R40). -/
def execZoneFlagsClear (s : State) : Answer :=
  .next (s.execute 0x2C fun s c =>
    match c.zone with
    | some z => (s.clearFlags z).answer c .ok
    | none => s.answer c .badValue).settle

/-- HOLD_TIMER_EXPIRY (R22). -/
def execHoldTimerExpiry (z : ZoneId) (s : State) : Answer :=
  .next (match (s.zone z).state, (s.zone z).hold with
    | .held, some t => ((s.reach t Config.holdMs).toAcquiring z false).settle
    | _, _ => s)

/-! ## Decoders (R59) -/

/-- A dynamic gain point in a reply: its position in one byte, its gain in two (DESIGN CHOICE, log 6). -/
def encPoint (p : GainPoint) : List Byte := enc1 p.position ++ encInt2 p.gain

/-- The current header and metadata (R59), one item that may be absent (DESIGN CHOICE, log 6). -/
def encCurrent (q : Header × Metadata) : List Byte :=
  encRate q.1.rate ++ enc1 q.1.map.length ++ encMap q.1.map ++ encInt2 q.2.level ++ encInt2 q.2.centreFold ++ encInt2 q.2.surroundFold ++
  encList encPoint q.2.points ++ encInt2 q.2.endGain

/-- What DEC.QUERY reports (R59); the sequence number takes one byte (DESIGN CHOICE, log 6). -/
def State.decoderData (s : State) (d : DecoderId) : List Byte :=
  let x := s.decoder d
  enc1 x.state.ctorIdx ++ encIndex x.port ++ encZones (s.users d) ++ enc1 x.bad ++ enc1 x.lastCause.ctorIdx ++ encFlag x.ready.isSome ++
  encOpt encCurrent (x.header.bind fun h => x.metadata.map fun m => (h, m)) ++ encOpt (fun k => enc1 k.sequence) x.chain ++
  enc2 x.counters.good ++ enc2 x.counters.rejected ++ enc2 x.counters.syncLosses ++ enc2 x.counters.ignored ++
  enc2 x.counters.jumps ++ enc2 x.counters.slips

/-- DEC_QUERY (R59). -/
def execDecQuery (s : State) : Answer :=
  .next (s.execute 0x30 fun s c =>
    match toFin? 2 (uField c.payload 0 1) with
    | some d => s.reply c .ok (s.decoderData d)
    | none => s.answer c .badValue).settle

end Sys2Proof.Machine
end

