-- ==== Sys2Proof/Machine/RenderCmds.lean ====
section
/-! DEFINITION. The meanings of the render commands (R31, R33, R83, R84, R86, R94, R96, R98 to R100, R112 to R114) and of the rows of the
render engine's own events (R54, R63, R79). -/

namespace Sys2Proof.Machine

/-! ## Zone render commands -/

/-- ZONE.VOLUME (R31). -/
def State.zoneVolume (s : State) (c : Command) : State :=
  match c.zone with
  | none => s.renderRefused c .badValue
  | some z =>
    let v := sField c.payload 1 2
    let a := (s.zone z).clampVolume v
    s.renderAccepted c (.ofClamp (a != v)) (encInt2 a) (.volume z a)

/-- ZONE_VOLUME (R31). -/
def execZoneVolume (s : State) : Answer := .next (s.execute 0x22 State.zoneVolume).settle

/-- A render command of a zone and a field of two values named by words. -/
def State.zoneSwitch (s : State) (c : Command) (change : ZoneId → Bool → RenderChange) : State :=
  match c.zone, wordField (uField c.payload 1 1) with
  | some z, some on => s.renderAccepted c .ok [] (change z on)
  | _, _ => s.renderRefused c .badValue

/-- ZONE_MUTE (R33). -/
def execZoneMute (s : State) : Answer := .next (s.execute 0x24 fun s c => s.zoneSwitch c .mute).settle

/-- ZONE.LIPSYNC (R83). -/
def State.zoneLipsync (s : State) (c : Command) : State :=
  match c.zone with
  | none => s.renderRefused c .badValue
  | some z =>
    let v := sField c.payload 1 2
    let a := clamp 0 200 v
    s.renderAccepted c (.ofClamp (a != v)) (encInt2 a) (.lipsync z a.toNat)

/-- ZONE_LIPSYNC (R83). -/
def execZoneLipsync (s : State) : Answer := .next (s.execute 0x28 State.zoneLipsync).settle

/-- ZONE_DRC (R84). -/
def execZoneDrc (s : State) : Answer := .next (s.execute 0x29 fun s c => s.zoneSwitch c .dynamicGain).settle

/-- ZONE_UPMIX (R94). -/
def execZoneUpmix (s : State) : Answer := .next (s.execute 0x2A fun s c => s.zoneSwitch c .upmix).settle

/-! ## Layouts, crossover sets, matrices -/

/-- A size field (R86). -/
def sizeOfByte (n : Nat) : Option Size := if n = 0 then some .absent else if n = 1 then some .small else if n = 2 then some .large else none

/-- The layout twelve sizes give, a present LFE recorded as present (R86). -/
def layoutOf (sizes : List Size) : Layout :=
  let at_ : Nat → Size := fun n => sizes.getD n .absent
  #v[at_ 0, at_ 1, at_ 2, if at_ 3 = .absent then .absent else .large, at_ 4, at_ 5, at_ 6, at_ 7, at_ 8, at_ 9, at_ 10, at_ 11]

/-- The roles the layouts and custom rows of a zone may hold: Z1 and Z2 have FL, FR and LFE (R85, R98). -/
def roleAllowed (z : ZoneId) (r : Role) : Bool := z == 0 || r == Role.FL || r == Role.FR || r == Role.LFE

/-- The layout LAYOUT.SET gives, or none where R86 answers BAD_VALUE. -/
def layoutField (z : ZoneId) (pl : List Byte) : Option Layout :=
  let sizes := ((pl.drop 1).take 12).map fun b => sizeOfByte b.toNat
  if sizes.all (·.isSome) then
    let l := layoutOf (sizes.filterMap id)
    if l.present Role.FL && l.present Role.FR && allRoles.all (fun r => roleAllowed z r || !l.present r) then some l else none
  else none

/-- LAYOUT.SET (R86). -/
def State.layoutSet (s : State) (c : Command) : State :=
  match c.zone with
  | none => s.renderRefused c .badValue
  | some z =>
    match layoutField z c.payload with
    | none => s.renderRefused c .badValue
    | some l => s.renderAccepted c .ok [] (.layout z l)

/-- LAYOUT_SET (R86). -/
def execLayoutSet (s : State) : Answer := .next (s.execute 0x38 State.layoutSet).settle

/-- The five coefficients of XOVER.LOAD (R96). -/
def xoverField (pl : List Byte) : XoverSet :=
  { b0 := sField pl 2 4, b1 := sField pl 6 4, b2 := sField pl 10 4, a1 := sField pl 14 4, a2 := sField pl 18 4 }

/-- XOVER.LOAD (R96); the sets are HIGH, LOW in order. -/
def State.xoverLoad (s : State) (c : Command) : State :=
  s.zoneSwitch c fun z high => if high then .high z (xoverField c.payload) else .low z (xoverField c.payload)

/-- XOVER_LOAD (R96). -/
def execXoverLoad (s : State) : Answer := .next (s.execute 0x39 State.xoverLoad).settle

/-- The rows of a MATRIX.LOAD whose map has `n` roles: `k` rows from byte `start`; none when a role code is above 11. -/
def matrixRows (pl : List Byte) (n : Nat) : Nat → Nat → Option (List MatrixRow)
  | 0, _ => some []
  | k + 1, start =>
    match toFin? 12 (uField pl start 1), matrixRows pl n k (start + 1 + 2 * n) with
    | some r, some rest => some ({ role := r, coefs := (List.range n).map fun i => sField pl (start + 1 + 2 * i) 2 } :: rest)
    | _, _ => none

/-- The write a MATRIX.LOAD makes, or none where step 2 of R98 answers BAD_VALUE. -/
def matrixField (z : ZoneId) (pl : List Byte) : Option MatrixWrite :=
  let n := uField pl 2 1
  let rows := uField pl (3 + n) 1
  match wordField (uField pl 1 1), rolesOf ((pl.drop 3).take n), matrixRows pl n rows (4 + n) with
  | some new, some map, some rs =>
    if 1 ≤ n ∧ n ≤ 12 ∧ rows ≤ 6 ∧ (rs.map (·.role)).Nodup ∧ rs.all (fun r => roleAllowed z r.role) then
      some { replaces := new, map := map, rows := rs }
    else none
  | _, _, _ => none

/-- The store as it will stand once the loads staged for the zone have applied (R98). -/
def Zone.storeAhead (x : Zone) : Option CustomMatrix := x.staged.loads.foldl writeStore x.store

/-- MATRIX.LOAD (R98, R99). -/
def State.matrixLoad (s : State) (c : Command) : State :=
  match c.zone with
  | none => s.renderRefused c .badValue
  | some z =>
    match matrixField z c.payload with
    | none => s.renderRefused c .badValue
    | some w =>
      if !w.replaces && (s.zone z).storeAhead.map (·.map) != some w.map then s.renderRefused c .notNow
      else s.renderAccepted c .ok [] (.load z w)

/-- MATRIX_LOAD (R98, R99). -/
def execMatrixLoad (s : State) : Answer := .next (s.execute 0x3A State.matrixLoad).settle

/-- MATRIX_MODE (R100); the modes are DEFAULT, CUSTOM in order. -/
def execMatrixMode (s : State) : Answer :=
  .next (s.execute 0x3B fun s c => s.zoneSwitch c fun z d => .mode z (if d then .default else .custom)).settle

/-! ## Slot render commands -/

/-- A render command of a slot and a clamped value (R112 to R114). -/
def State.slotSetting (s : State) (c : Command) (lo hi : Int) (change : SlotId → Int → RenderChange) : State :=
  match toFin? 16 (uField c.payload 0 1) with
  | none => s.renderRefused c .badValue
  | some i =>
    if (s.slot i).assigned.isNone then s.renderRefused c .notNow
    else
      let v := sField c.payload 1 2
      let a := clamp lo hi v
      if a = v then s.renderAccepted c .ok [] (change i a) else s.renderAccepted c .clamped (encInt2 a) (change i a)

/-- SLOT_DISTANCE (R112). -/
def execSlotDistance (s : State) : Answer :=
  .next (s.execute 0x42 fun s c => s.slotSetting c 0 1000 fun i a => .distance i a.toNat).settle

/-- SLOT_TRIM (R113). -/
def execSlotTrim (s : State) : Answer := .next (s.execute 0x43 fun s c => s.slotSetting c (-24) 24 .trim).settle

/-- SLOT_LIMIT (R114). -/
def execSlotLimit (s : State) : Answer :=
  .next (s.execute 0x44 fun s c => s.slotSetting c 0 48 fun i a => .limit i a.toNat).settle

/-! ## Audio events -/

/-- SPAN_BOUNDARY of a decoder whose play clock runs (R54, R55). -/
def execSpanBoundary (d : DecoderId) (s : State) : Answer :=
  .next (if (s.decoder d).clock then (s.spanBoundary d).settle else s)

/-- ZONE_SAMPLE_PERIOD (R1, R63). -/
def execZoneSamplePeriod (z : ZoneId) (words : List InputWord) (s : State) : Answer :=
  .next (if s.samplePeriodDue z (words.map takenWord) then (s.samplePeriod z (words.map takenWord)).settle else s)

/-- BLOCK_BOUNDARY (R63). -/
def execBlockBoundary (z : ZoneId) (s : State) : Answer :=
  .next (if s.blockDue z then (s.blockBoundary z).settle else s)

/-- RAMP_OUT_END (R79). -/
def execRampOutEnd (z : ZoneId) (s : State) : Answer :=
  .next (if s.rampOutDone z then (s.endRampOut z).settle else s)

end Sys2Proof.Machine
end

