-- ==== Sys2Proof/Machine/SlotCmds.lean ====
section
/-! DEFINITION. The meanings of SLOT.ASSIGN, SLOT.RELEASE, SLOT.QUERY (R107 to R110, R116). -/

namespace Sys2Proof.Machine

/-- The slot a command names in its first byte. -/
def Command.slot (c : Command) : Option SlotId := toFin? 16 (uField c.payload 0 1)

/-- The destination fields of SLOT.ASSIGN; none where step 1 of R108 refuses them. The kinds are AMP, LINE in order. -/
def destinationField (pl : List Byte) : Option Destination :=
  match wordField (uField pl 3 1) with
  | some true =>
    let ch := uField pl 10 1
    if 1 ≤ ch ∧ ch ≤ 8 then some (.amp (idField pl 4) ch) else none
  | some false => (toFin? 6 (uField pl 11 1)).map .line
  | none => none

/-- A table entry, PRESENT or ABSENT, carries the identity and the channel is above its count (R108). -/
def State.beyondEntry (s : State) : Destination → Bool
  | .amp id ch => (s.entryOf id).any fun k => (s.entry k).any fun e => e.faults.length < ch
  | .line _ => false

/-- The assignment SLOT.ASSIGN asks for; none where step 1 of R108 answers BAD_VALUE. -/
def State.assignField (s : State) (pl : List Byte) : Option Assignment :=
  match toFin? 3 (uField pl 1 1), toFin? 12 (uField pl 2 1), destinationField pl with
  | some z, some r, some d => if s.beyondEntry d then none else some { zone := z, role := r, dest := d }
  | _, _, _ => none

/-- Steps 2 and 3 of R108: another slot has the destination, or lies on its lane with another zone. -/
def State.assignConflict (s : State) (i : SlotId) (a : Assignment) : Bool :=
  allSlots.any fun j => j != i && (s.slot j).assigned.any fun b =>
    b.dest == a.dest || (b.dest.lane == a.dest.lane && b.zone != a.zone)

/-- The identity of a module lane. -/
def Assignment.module (a : Assignment) : Option Identity :=
  match a.dest with
  | .amp id _ => some id
  | .line _ => none

/-- WRITE_ENABLE is requested for a module whose enable mask changed (R107). -/
def State.enableChanged (s before : State) (id : Option Identity) : State :=
  match id with
  | none => s
  | some id => if s.enableMask id = before.enableMask id then s else s.requestEnable id

/-- A slot's record on SLOT.ASSIGN (R109, steps 1 to 6): what it was set to before stays; `rate` is that of a RUNNING or HELD zone. -/
def Slot.assign (x : Slot) (a : Assignment) (z : Zone) (rate : Option RateCode) (reduction : Nat) : Slot :=
  let x := { x.zeroXover with
    assigned := some a, staged := .empty, overflow := false, limited := false, clips := 0, g := 0, target := 0, line := [],
    reduction := reduction, activeTrim := x.trim, activeLimit := x.limit, activeSet := xoverUse z.active.layout a.role,
    distanceDue := false, word := 0 }
  match rate with
  | some r => { x.computeDelay r with line := [] }
  | none => x

/-- SLOT.ASSIGN that has passed its checks (R109). -/
def State.assignSlot (s : State) (i : SlotId) (a : Assignment) : State :=
  let before := s
  let z := s.zone a.zone
  let rate := if z.state = .running ∨ z.state = .held then z.rate else none
  let s := s.setSlot i ((s.slot i).assign a z rate (s.protOf a.dest).2)
  let s := match rate with
    | some r => s.setLaneRate a.dest.lane r
    | none => s
  let s := s.setSlot i ((s.slot i).enter (s.slotStateFor a (s.slot i).reduction))
  let s := s.markSlot i
  let old := (before.slot i).assigned.bind (·.module)
  let s := s.enableChanged before old
  if old = a.module then s else s.enableChanged before a.module

/-- SLOT.ASSIGN (R108, R109). -/
def State.slotAssign (s : State) (c : Command) : State :=
  match c.slot, s.assignField c.payload with
  | some i, some a => if s.assignConflict i a then s.answer c .conflict else (s.assignSlot i a).answer c .ok
  | _, _ => s.answer c .badValue

/-- SLOT_ASSIGN (R108, R109). -/
def execSlotAssign (s : State) : Answer := .next (s.execute 0x40 State.slotAssign).settleLink

/-- A slot out of its zone: its reset values but for the sticky flags and the clip counter (R110). -/
def Slot.release (x : Slot) : Slot := { Slot.reset with overflow := x.overflow, limited := x.limited, clips := x.clips }

/-- SLOT.RELEASE of an assigned slot (R110). -/
def State.releaseSlot (s : State) (i : SlotId) (a : Assignment) : State :=
  ((s.setSlot i (s.slot i).release).markSlot i).enableChanged s a.module

/-- SLOT.RELEASE (R110). -/
def State.slotRelease (s : State) (c : Command) : State :=
  match c.slot with
  | none => s.answer c .badValue
  | some i =>
    match (s.slot i).assigned with
    | none => s.answer c .ok
    | some a => (s.releaseSlot i a).answer c .ok

/-- SLOT_RELEASE (R110). -/
def execSlotRelease (s : State) : Answer := .next (s.execute 0x41 State.slotRelease).settleLink

/-- What SLOT.QUERY reports (R116). Ramp level and target take one byte each; the limit steps and Lim are those of the slot limit in the
record, also while a new one waits for the block boundary. Zone, role and destination are one item that may be absent, and so is the missing
cause, absent for an UNASSIGNED slot (DESIGN CHOICE, log 6). -/
def State.slotData (s : State) (i : SlotId) : List Byte :=
  let x := s.slot i
  let steps := limitSteps x.limit x.reduction
  enc1 x.state.ctorIdx ++ encOpt encAssignment x.assigned ++ encOpt (fun m => enc1 m.ctorIdx) (x.assigned.bind fun a => s.missing a.dest) ++
  enc2 x.distance ++ enc4 x.delay ++ encInt2 x.trim ++ enc2 x.limit ++
  enc2 x.reduction ++ enc2 steps ++ enc4 (limitOf steps) ++ enc1 x.g ++ enc1 x.target ++
  encFlag x.overflow ++ encFlag x.limited ++ enc2 x.clips ++
  encOpt enc2 x.staged.distance ++ encOpt encInt2 x.staged.trim ++ encOpt enc2 x.staged.limit

/-- SLOT.QUERY (R116); the options are KEEP, CLEAR in order. -/
def State.slotQuery (s : State) (c : Command) : State :=
  match c.slot, wordField (uField c.payload 1 1) with
  | some i, some keep =>
    let s := s.reply c .ok (s.slotData i)
    if keep then s else s.setSlot i { (s.slot i).clearFlags with clips := 0 }
  | _, _ => s.answer c .badValue

/-- SLOT_QUERY (R116). -/
def execSlotQuery (s : State) : Answer := .next (s.execute 0x45 State.slotQuery).settle

end Sys2Proof.Machine
end

