-- ==== Sys2Proof/Machine/SourceCmds.lean ====
section
/-! DEFINITION. The meanings of SRC.DEFINE, SRC.ENABLE, SRC.QUERY (R13 to R17). -/

namespace Sys2Proof.Machine

/-- The definition SRC.DEFINE gives an entry: fixed values in place of unused fields (R15); none where R14 answers BAD_VALUE. -/
def sourceDefinition (pl : List Byte) : Option (PortId × Nat × List Role) :=
  match toFin? 11 (uField pl 1 1) with
  | none => none
  | some p =>
    let w := uField pl 2 1
    let n := uField pl 3 1
    if p.val ≤ 2 ∧ ¬ (w = 16 ∨ w = 20 ∨ w = 24) then none
    else
      let width := if p.val ≤ 2 then w else 24
      if p = 0 then
        (if n = 2 ∨ n = 4 ∨ n = 6 ∨ n = 8 then (rolesOf ((pl.drop 4).take n)).map fun m => (p, width, m) else none)
      else some (p, width, [Role.FL, Role.FR])

/-- Another enabled entry naming P0 has another channel count or map (R14, R16). -/
def State.p0Disagrees (s : State) (e : SourceId) (map : List Role) : Bool :=
  allSources.any fun x => x != e && (s.source x).enabled && (s.source x).port == 0 && (s.source x).map != map

/-- A changed offset is reported for each zone whose selected source is the entry (R15, R67), in order of their numbers (DESIGN CHOICE, log 53). -/
def State.offsetChanged (s : State) (e : SourceId) : State :=
  allZones.foldl (fun s z => if (s.zone z).source = some e then s.lipsyncChanged z else s) s

/-- The entry is written, ports are renamed, a changed offset is reported (R15). -/
def State.writeSource (s : State) (e : SourceId) (x : Source) : State :=
  let old := s.source e
  let oldNamed := s.named old.port
  let newNamed := s.named x.port
  let s := s.setSource e x
  let s := if old.port = x.port then s else (s.renamePort old.port oldNamed).renamePort x.port newNamed
  if old.offset = x.offset then s else s.offsetChanged e

/-- SRC.DEFINE (R14, R15). -/
def State.srcDefine (s : State) (c : Command) : State :=
  match toFin? 16 (uField c.payload 0 1), sourceDefinition c.payload with
  | some e, some (p, width, map) =>
    let old := s.source e
    if s.inUse e ∧ ¬ (old.port = p ∧ old.width = width ∧ old.map = map) then s.answer c .notNow
    else if old.enabled ∧ p = 0 ∧ s.p0Disagrees e map then s.answer c .notNow
    else
      let trim := sField c.payload 12 2
      let offset := sField c.payload 14 2
      let x : Source :=
        { old with port := p, width := width, map := map, trim := clamp (-12) 12 trim, offset := (clamp 0 100 offset).toNat }
      (s.writeSource e x).reply c (.ofClamp (x.trim != trim || (x.offset : Int) != offset)) (encInt2 x.trim ++ encInt2 x.offset)
  | _, _ => s.answer c .badValue

/-- SRC_DEFINE (R14, R15). -/
def execSrcDefine (s : State) : Answer := .next (s.execute 0x10 State.srcDefine).settle

/-- The enabled field changes: the port is renamed, and an entry enabled is reported to the zones that wait for it (R16, R25), in
order of their numbers (DESIGN CHOICE, log 53). -/
def State.switchSource (s : State) (e : SourceId) (on : Bool) : State :=
  let x := s.source e
  let before := s.named x.port
  let s := (s.setSource e { x with enabled := on }).renamePort x.port before
  if on then
    allZones.foldl (fun s z => if (s.zone z).state = .acquiring ∧ (s.zone z).source = some e then s.acquire z else s) s
  else s

/-- SRC.ENABLE (R16). -/
def State.srcEnable (s : State) (c : Command) : State :=
  match toFin? 16 (uField c.payload 0 1), wordField (uField c.payload 1 1) with
  | some e, some on =>
    let x := s.source e
    if !on && s.inUse e then s.answer c .notNow
    else if on ∧ x.port = 0 ∧ x.enabled = false ∧ s.p0Disagrees e x.map then s.answer c .notNow
    else if x.enabled = on then s.answer c .ok
    else (s.switchSource e on).answer c .ok
  | _, _ => s.answer c .badValue

/-- SRC_ENABLE (R16). -/
def execSrcEnable (s : State) : Answer := .next (s.execute 0x11 State.srcEnable).settle

/-- The three lists of zones of the in-use condition (R13, R17). -/
def State.inUseLists (s : State) (e : SourceId) : List Byte :=
  encZones (allZones.filter fun z => (s.zone z).powered && (s.zone z).source == some e) ++
  encZones (allZones.filter fun z => (s.zone z).stack.any fun x => x.source == some e) ++
  encZones (allZones.filter fun z => (s.zone z).policy == .follow && (s.zone z).annSource == some e)

/-- What SRC.QUERY reports (R17). -/
def State.sourceData (s : State) (e : SourceId) : List Byte :=
  let x := s.source e
  encFlag x.enabled ++ enc1 x.port.val ++ enc1 x.width ++ enc1 x.map.length ++ encMap x.map ++ encInt2 x.trim ++ encInt2 x.offset ++
  s.inUseLists e ++ s.encPort x.port

/-- SRC_QUERY (R17). -/
def execSrcQuery (s : State) : Answer :=
  .next (s.execute 0x12 fun s c =>
    match toFin? 16 (uField c.payload 0 1) with
    | some e => s.reply c .ok (s.sourceData e)
    | none => s.answer c .badValue).settle

end Sys2Proof.Machine
end

