-- ==== Sys2Proof/Machine/TunerCmds.lean ====
section
/-! DEFINITION. The meanings of the tuner's commands and of the station list's (R154 to R168). -/

namespace Sys2Proof.Machine

/-- TUN.POWER on, with the front end's answer to the probe (R154). What the probe reads is not written into the record (DESIGN CHOICE, log 54). -/
def State.tunerOn (s : State) (c : Command) (probe : Bool) : State :=
  match s.tuner.state with
  | .off | .fault =>
    if probe then (s.returnTune s.tuner.channel false).answer c .ok
    else (s.setTunerState .fault).answer c .noResource
  | _ => s.answer c .ok

/-- TUN.POWER (R154). Off places the ABORTED reply of an operation in flight before its own (DESIGN CHOICE, log 50). -/
def State.tunPower (probe : Bool) (s : State) (c : Command) : State :=
  match wordField (uField c.payload 0 1) with
  | none => s.answer c .badValue
  | some true => s.tunerOn c probe
  | some false => (if s.tuner.state = .off then s else s.tunerOff).answer c .ok

/-- TUN_POWER (R154). -/
def execTunPower (probe : Bool) (s : State) : Answer := .next (s.execute 0x60 (State.tunPower probe)).settle

/-- A new region is written, and every AM entry leaves the station list (R155). -/
def State.changeRegion (s : State) (r : Region) : State :=
  let s := { s.updTuner fun t => { t with region := r } with stations := s.stations.filter fun y => y.band == .fm }
  if s.tuner.state = .idle ∧ s.tuner.band = .am then s.returnTune s.tuner.channel false else s

/-- TUN.REGION (R155). A region out of range is refused before the state of the tuner is looked at (DESIGN CHOICE, log 61). -/
def State.tunRegion (s : State) (c : Command) : State :=
  match wordField (uField c.payload 0 1) with
  | none => s.answer c .badValue
  | some nine =>
    let r : Region := if nine then .khz9 else .khz10
    if s.tuner.state ≠ .off ∧ s.tuner.state ≠ .idle then s.answer c .notNow
    else (if s.tuner.region = r then s else s.changeRegion r).answer c .ok

/-- TUN_REGION (R155). -/
def execTunRegion (s : State) : Answer := .next (s.execute 0x61 State.tunRegion).settle

/-- TUN.THRESHOLD (R157). -/
def State.tunThreshold (s : State) (c : Command) : State :=
  match wordField (uField c.payload 6 1) with
  | none => s.answer c .badValue
  | some follow =>
    let st := clamp 0 120 (sField c.payload 0 2)
    let mp := clamp 0 100 (sField c.payload 2 2)
    let fl := clamp 0 120 (sField c.payload 4 2)
    let changed := st != sField c.payload 0 2 || mp != sField c.payload 2 2 || fl != sField c.payload 4 2
    (s.updTuner fun t =>
      { t with strengthThreshold := st.toNat, multipathThreshold := mp.toNat, followThreshold := fl.toNat, follow := follow,
               lowSince := if follow then t.lowSince else none }).reply c (.ofClamp changed) (encInt2 st ++ encInt2 mp ++ encInt2 fl)

/-- TUN_THRESHOLD (R157). -/
def execTunThreshold (s : State) : Answer := .next (s.execute 0x62 State.tunThreshold).settle

/-- A band field (R186). -/
def bandField (n : Nat) : Option Band := (wordField n).map fun fm => if fm then .fm else .am

/-- A band and a channel the band has, at byte `start`. -/
def channelField (pl : List Byte) (start : Nat) : Option (Band × Nat) :=
  (bandField (uField pl start 1)).bind fun b =>
    if uField pl (start + 1) 2 ≤ b.last then some (b, uField pl (start + 1) 2) else none

/-- TUN.TUNE (R158). A band or channel out of range is refused before the state of the tuner is looked at (DESIGN CHOICE, log 61). -/
def State.tunTune (s : State) (c : Command) : State :=
  match channelField c.payload 0 with
  | none => s.answer c .badValue
  | some (b, ch) =>
    match s.tunerRefusal with
    | some r => s.answer c r
    | none =>
      (s.startOp c { kind := .tune, start := s.tuner.channel, loop := 0, found := 0, listFull := false } .tuning (.tune false)).visit b ch

/-- TUN_TUNE (R158). -/
def execTunTune (s : State) : Answer := .next (s.execute 0x63 State.tunTune).settle

/-- TUN.SEEK (R161); the directions are UP, DOWN in order. One out of range is refused before the state of the tuner is looked at (DESIGN CHOICE,
log 61). -/
def State.tunSeek (s : State) (c : Command) : State :=
  match wordField (uField c.payload 0 1) with
  | none => s.answer c .badValue
  | some up =>
    match s.tunerRefusal with
    | some r => s.answer c r
    | none =>
      let t := s.tuner
      (s.startOp c { kind := .seek, start := t.channel, loop := t.band.channels, found := 0, listFull := false } .seeking
        (.seekStep up)).visit t.band (nextChannel t.band up t.channel)

/-- TUN_SEEK (R161). -/
def execTunSeek (s : State) : Answer := .next (s.execute 0x64 State.tunSeek).settle

/-- TUN.SCAN (R163); the options are NORMAL, FORCE in order. The option is checked first, then the state of the tuner, then, with NORMAL, the
zones on P10 (DESIGN CHOICE, log 61). -/
def State.tunScan (s : State) (c : Command) : State :=
  match wordField (uField c.payload 0 1) with
  | none => s.answer c .badValue
  | some normal =>
    match s.tunerRefusal with
    | some r => s.answer c r
    | none =>
      if normal && s.zoneHoldsTuner then s.answer c .notNow
      else
        (s.startOp c { kind := .scan, start := s.tuner.channel, loop := 0, found := 0, listFull := false } .scanning
          .scanStep).visit s.tuner.band 0

/-- TUN_SCAN (R163). -/
def execTunScan (s : State) : Answer := .next (s.execute 0x65 State.tunScan).settle

/-- TUN_ABORT (R167). -/
def execTunAbort (s : State) : Answer := .next (s.execute 0x66 fun s c => s.abortTuner.answer c .ok).settle

/-- The operation in flight as TUN.QUERY reports it: the loop counter of a seek, the found count of a scan (R168). The
operation is an item that may be absent, and so are the two counts (DESIGN CHOICE, log 6). -/
def encOp (o : TunerOp) : List Byte :=
  enc1 o.kind.ctorIdx ++ enc2 o.start ++ encOpt enc2 (if o.kind = .seek then some o.loop else none) ++
  encOpt enc1 (if o.kind = .scan then some o.found else none)

/-- The original channel and the index of the alternate of a check (R168). -/
def Tuner.checking (t : Tuner) : Option (Nat × Nat) :=
  match t.job with
  | .check original i => some (original, i)
  | _ => none

/-- What TUN.QUERY reports (R168): the frequency as four bytes in kHz, the index of the alternate as one byte from 0, the time
the low-signal timer has run, which nothing bounds (R166), modulo 2^32 (DESIGN CHOICE, log 6). -/
def State.tunerData (s : State) : List Byte :=
  let t := s.tuner
  enc1 t.state.ctorIdx ++ encBand t.band ++ enc2 t.channel ++ enc4 (frequencyKHz t.band t.region t.channel) ++ encRegion t.region ++
  [t.alignment] ++ encQuality t.quality ++
  enc2 t.strengthThreshold ++ enc2 t.multipathThreshold ++ enc2 t.followThreshold ++ encOn t.follow ++
  encOpt encOp t.op ++ encFlag t.returning ++ encOpt (fun w => enc4 (s.now - w)) t.lowSince ++
  encOpt (fun (q : Nat × Nat) => enc2 q.1 ++ enc1 q.2) t.checking ++ enc1 s.stations.length

/-- TUN_QUERY (R168). -/
def execTunQuery (s : State) : Answer := .next (s.execute 0x67 fun s c => s.reply c .ok s.tunerData).settle

def encName (n : List Byte) : List Byte := n

/-- An entry of the station list as STLIST.READ reports it (R164). -/
def encStation (x : Station) : List Byte :=
  encBand x.band ++ enc2 x.channel ++ enc1 x.strength ++ encOpt encCode x.code ++ encOpt encName x.name

/-- STLIST.READ (R164). -/
def State.stlistRead (s : State) (c : Command) : State :=
  let first := uField c.payload 0 1
  let count := uField c.payload 1 1
  if 47 < first ∨ count = 0 ∨ 8 < count then s.answer c .badValue
  else s.reply c .ok (enc1 s.stations.length ++ encList encStation ((s.stations.drop first).take count))

/-- STLIST_READ (R164). -/
def execStlistRead (s : State) : Answer := .next (s.execute 0x68 State.stlistRead).settle

/-- STLIST_CLEAR (R165). -/
def execStlistClear (s : State) : Answer := .next (s.execute 0x69 fun s c => ({ s with stations := [] } : State).answer c .ok).settle

end Sys2Proof.Machine
end

