-- ==== Sys2Proof/Machine/StationCmds.lean ====
section
/-! DEFINITION. The meanings of the station memory commands (R172 to R175, R181). -/

namespace Sys2Proof.Machine

/-- STMEM.LOCKMODE (R172). -/
def State.stmemLockmode (s : State) (c : Command) : State :=
  match wordField (uField c.payload 0 1) with
  | none => s.answer c .badValue
  | some on => (s.setStationMemory { s.stationMemory with lockMode := on }).answer c .ok

/-- STMEM_LOCKMODE (R172). -/
def execStmemLockmode (s : State) : Answer := .next (s.execute 0x70 State.stmemLockmode).settle

/-- The entry STMEM.PRESET inserts (R173). -/
def State.presetEntry (s : State) : StationEntry :=
  { band := s.tuner.band, channel := s.tuner.channel, rank := none, alignment := s.tuner.alignment, quality := s.tuner.quality,
    code := s.stationData.stable, name := s.stationData.fullName }

/-- STMEM.PRESET (R173). A band or channel out of range is refused before the tuner is looked at (DESIGN CHOICE, log 61). -/
def State.stmemPreset (s : State) (c : Command) : State :=
  match channelField c.payload 0 with
  | none => s.answer c .badValue
  | some (b, ch) =>
    if s.tuner.state ≠ .idle ∨ s.tuner.band ≠ b ∨ s.tuner.channel ≠ ch then s.answer c .notNow
    else if (s.stationMemory.entry b ch).isSome then (s.setStationMemory (s.stationMemory.lock b ch)).answer c .ok
    else
      let r := s.stationMemory.insert s.presetEntry true
      (s.setStationMemory r.1).answer c (if r.2 then .ok else .noResource)

/-- STMEM_PRESET (R173). -/
def execStmemPreset (s : State) : Answer := .next (s.execute 0x71 State.stmemPreset).settle

/-- STMEM.UNLOCK (R174). A band or channel out of range is refused before the memory is looked at (DESIGN CHOICE, log 61). -/
def State.stmemUnlock (s : State) (c : Command) : State :=
  match channelField c.payload 0 with
  | none => s.answer c .badValue
  | some (b, ch) =>
    if (s.stationMemory.entry b ch).isNone then s.answer c .notNow
    else (s.setStationMemory (s.stationMemory.unlock b ch)).answer c .ok

/-- STMEM_UNLOCK (R174). -/
def execStmemUnlock (s : State) : Answer := .next (s.execute 0x72 State.stmemUnlock).settle

/-- STMEM_FLUSH (R175). -/
def execStmemFlush (s : State) : Answer :=
  .next (s.execute 0x73 fun s c => (s.setStationMemory s.stationMemory.flush).answer c .ok).settle

/-- A valid entry as STMEM.QUERY reports it: its locked field, rank, tag, alignment, quality, code and name (R181). A rank takes one byte
(DESIGN CHOICE, log 6). -/
def encStationEntry (x : StationEntry) : List Byte :=
  encFlag x.rank.isNone ++ encOpt enc1 x.rank ++ encBand x.band ++ enc2 x.channel ++ [x.alignment] ++ encQuality x.quality ++
  encOpt encCode x.code ++ encOpt encName x.name

/-- The station data decoder's record (R176, R181); the elapsed time is 0 while no announcement is active, and after the
segments of the name a flag says whether it is complete (DESIGN CHOICE, log 6). -/
def State.stationDataRecord (s : State) : List Byte :=
  let x := s.stationData
  encOpt (fun (q : BitVec 16 × Nat) => encCode q.1 ++ enc1 q.2) x.candidate ++ encOpt encCode x.stable ++
  encFlag x.capable ++ encFlag x.stereo ++ encSegments x ++ encFlag x.complete ++ encList enc2 x.alternates ++
  encFlag x.active.isSome ++ enc4 (s.announcementTime.getD 0) ++ enc1 x.setRun ++ enc1 x.clearRun ++ encFlag x.rearm ++
  enc1 x.endCause.ctorIdx ++ enc2 x.badGroups

/-- What STMEM.QUERY reports (R181). The valid field of a way is the byte that says whether the fields of its entry are present (DESIGN CHOICE,
log 6). -/
def State.stationMemoryData (s : State) (i : Fin 16) : List Byte :=
  encOn s.stationMemory.lockMode ++ enc2 s.stationMemory.notStored ++
  (s.stationMemory.sets[i]).toList.flatMap (encOpt encStationEntry) ++ s.stationDataRecord

/-- STMEM_QUERY (R181). -/
def execStmemQuery (s : State) : Answer :=
  .next (s.execute 0x74 fun s c =>
    match toFin? 16 (uField c.payload 0 1) with
    | some i => s.reply c .ok (s.stationMemoryData i)
    | none => s.answer c .badValue).settle

end Sys2Proof.Machine
end

