-- ==== Sys2Proof/Machine/TunerEvents.lean ====
section
/-! DEFINITION. The meanings of the tuner link's rows and of the tuner's timers (R153, R156, R158 to R166). -/

namespace Sys2Proof.Machine

/-- A transaction that is not acknowledged is sent once more; a second failure is a front-end failure (R153). -/
def State.tunerNak (s : State) : State := if s.tuner.again then s.tunerFault else s.updTuner fun t => { t with again := true }

/-- TUNER_TRANSACTION_COMPLETE (R153). -/
def execTunerTransactionComplete (r : TunerResult) (s : State) : Answer :=
  .next (if s.tuner.inFlight then
    (match r with
     | .acknowledged q => s.tunerAcked q
     | .notAcknowledged => s.tunerNak).settle
  else s)

/-- SETTLE_TIME_EXPIRY (R158, step 2). -/
def execSettleTimeExpiry (s : State) : Answer :=
  .next (match s.tuner.step with
    | .settle t => ((s.reach t s.tuner.band.settle).settled).settle
    | _ => s)

/-- The quality wait begins (R156). -/
def State.beginWait (s : State) : State := s.updTuner fun t => { t with step := .wait s.now }

/-- ALIGNMENT_SEARCH_EXPIRY (R153, R158). -/
def execAlignmentSearchExpiry (s : State) : Answer :=
  .next (match s.tuner.step with
    | .search t => ((s.reach t Config.searchMs).beginWait).settle
    | _ => s)

/-- QUALITY_WAIT_EXPIRY (R156). -/
def execQualityWaitExpiry (s : State) : Answer :=
  .next (match s.tuner.step with
    | .wait t => ((s.reach t Config.qualityMs).updTuner fun t => { t with step := .read }).settle
    | _ => s)

/-- MONITOR_READ: 100 ms after the one before, a reading, or a front-end failure (R153, R156). -/
def execMonitorRead (reading : Option Reading) (s : State) : Answer :=
  .next (if s.tuner.state = .idle then
    (let s := s.reach s.tuner.monitorSince Config.monitorMs
     match reading with
     | some q => s.monitor q
     | none => s.tunerFault).settle
  else s)

/-- A READ_DATA has been acknowledged (R153). -/
def State.dataRead (s : State) : State := s.updTuner fun t => { t with again := false }

/-- A group read in the identity wait: only a valid IDENT group decides (R166). -/
def State.alternateGroup (s : State) (original i : Nat) (bytes : List Byte) : State :=
  match Group.ofBytes bytes with
  | none => s
  | some g =>
    if g.type ≠ 0 then s
    else if s.stationData.stable = some g.code then s.checkGood
    else s.tryAlternate original (i + 1)

/-- ALTERNATE_IDENT_GROUP (R166). -/
def execAlternateIdentGroup (group : List Byte) (s : State) : Answer :=
  .next (match s.tuner.job, s.tuner.step with
    | .check original i, .ident _ => (s.dataRead.alternateGroup original i group).settle
    | _, _ => s)

/-- ALTERNATE_IDENT_TIMEOUT (R166). -/
def execAlternateIdentTimeout (s : State) : Answer :=
  .next (match s.tuner.job, s.tuner.step with
    | .check original i, .ident t => ((s.reach t Config.identMs).tryAlternate original (i + 1)).settle
    | _, _ => s)

/-- STATION_DATA_GROUP, read while IDLE on FM (R156, R176). -/
def execStationDataGroup (group : List Byte) (s : State) : Answer :=
  .next (if s.tuner.state = .idle ∧ s.tuner.band = .fm ∧ group.length = 7 then (s.dataRead.takeGroup group).settle else s)

/-- ANNOUNCEMENT_TIMEOUT (R180). -/
def execAnnouncementTimeout (s : State) : Answer :=
  .next (match s.stationData.active with
    | some t => ((s.reach t Config.announcementMs).endAnnouncement .timeout).settle
    | none => s)

end Sys2Proof.Machine
end

