-- ==== Sys2Proof/Machine/Dispatch.lean ====
section
/-! DEFINITION. exec: one arm for each command of the table, each one call of its meaning. -/

namespace Sys2Proof.Machine

def exec (i : Instr) (s : State) : Host.Outcome State Fault Refusal :=
  match i with
  | .hardReset => Sys2Proof.Machine.execHardReset s
  | .initialisationEnd => Sys2Proof.Machine.execInitialisationEnd s
  | .statusTransfer => Sys2Proof.Machine.execStatusTransfer s
  | .writeTransfer bytes => Sys2Proof.Machine.execWriteTransfer bytes s
  | .readTransfer clocked => Sys2Proof.Machine.execReadTransfer clocked s
  | .otherTransfer first clocked => Sys2Proof.Machine.execOtherTransfer first clocked s
  | .unknownCommandKind => Sys2Proof.Machine.execUnknownCommandKind s
  | .sysReset => Sys2Proof.Machine.execSysReset s
  | .noteMask => Sys2Proof.Machine.execNoteMask s
  | .srcDefine => Sys2Proof.Machine.execSrcDefine s
  | .srcEnable => Sys2Proof.Machine.execSrcEnable s
  | .srcQuery => Sys2Proof.Machine.execSrcQuery s
  | .clockSeen p => Sys2Proof.Machine.execClockSeen p s
  | .rateRecognitionChange p rate => Sys2Proof.Machine.execRateRecognitionChange p rate s
  | .stabilityTimerExpiry p => Sys2Proof.Machine.execStabilityTimerExpiry p s
  | .clockLost p => Sys2Proof.Machine.execClockLost p s
  | .rateChange p rate => Sys2Proof.Machine.execRateChange p rate s
  | .wordTaken p w => Sys2Proof.Machine.execWordTaken p w s
  | .wordCountLimit p w => Sys2Proof.Machine.execWordCountLimit p w s
  | .channelStatusBlock p nonAudio => Sys2Proof.Machine.execChannelStatusBlock p nonAudio s
  | .zonePower => Sys2Proof.Machine.execZonePower s
  | .zoneSource => Sys2Proof.Machine.execZoneSource s
  | .zoneVolume => Sys2Proof.Machine.execZoneVolume s
  | .zoneMaxvol => Sys2Proof.Machine.execZoneMaxvol s
  | .zoneMute => Sys2Proof.Machine.execZoneMute s
  | .zonePush => Sys2Proof.Machine.execZonePush s
  | .zonePop => Sys2Proof.Machine.execZonePop s
  | .zoneAnnounce => Sys2Proof.Machine.execZoneAnnounce s
  | .zoneLipsync => Sys2Proof.Machine.execZoneLipsync s
  | .zoneDrc => Sys2Proof.Machine.execZoneDrc s
  | .zoneUpmix => Sys2Proof.Machine.execZoneUpmix s
  | .zoneQuery => Sys2Proof.Machine.execZoneQuery s
  | .zoneFlagsClear => Sys2Proof.Machine.execZoneFlagsClear s
  | .holdTimerExpiry z => Sys2Proof.Machine.execHoldTimerExpiry z s
  | .decQuery => Sys2Proof.Machine.execDecQuery s
  | .spanBoundary d => Sys2Proof.Machine.execSpanBoundary d s
  | .zoneSamplePeriod z words => Sys2Proof.Machine.execZoneSamplePeriod z words s
  | .blockBoundary z => Sys2Proof.Machine.execBlockBoundary z s
  | .rampOutEnd z => Sys2Proof.Machine.execRampOutEnd z s
  | .layoutSet => Sys2Proof.Machine.execLayoutSet s
  | .xoverLoad => Sys2Proof.Machine.execXoverLoad s
  | .matrixLoad => Sys2Proof.Machine.execMatrixLoad s
  | .matrixMode => Sys2Proof.Machine.execMatrixMode s
  | .slotAssign => Sys2Proof.Machine.execSlotAssign s
  | .slotRelease => Sys2Proof.Machine.execSlotRelease s
  | .slotDistance => Sys2Proof.Machine.execSlotDistance s
  | .slotTrim => Sys2Proof.Machine.execSlotTrim s
  | .slotLimit => Sys2Proof.Machine.execSlotLimit s
  | .slotQuery => Sys2Proof.Machine.execSlotQuery s
  | .linkStart => Sys2Proof.Machine.execLinkStart s
  | .linkEnum => Sys2Proof.Machine.execLinkEnum s
  | .linkReset => Sys2Proof.Machine.execLinkReset s
  | .linkQuery => Sys2Proof.Machine.execLinkQuery s
  | .transactionComplete r => Sys2Proof.Machine.execTransactionComplete r s
  | .absentReleaseAssign => Sys2Proof.Machine.execAbsentReleaseAssign s
  | .linkStall freed => Sys2Proof.Machine.execLinkStall freed s
  | .stallRecoveryRepeat freed => Sys2Proof.Machine.execStallRecoveryRepeat freed s
  | .pollTimerExpiry k => Sys2Proof.Machine.execPollTimerExpiry k s
  | .requestWindow addresses => Sys2Proof.Machine.execRequestWindow addresses s
  | .faultRequest kind fault mask value => Sys2Proof.Machine.execFaultRequest kind fault mask value s
  | .joinRequest => Sys2Proof.Machine.execJoinRequest s
  | .identityResponse identity => Sys2Proof.Machine.execIdentityResponse identity s
  | .assignComplete acknowledged => Sys2Proof.Machine.execAssignComplete acknowledged s
  | .roundReadDesc reply => Sys2Proof.Machine.execRoundReadDesc reply s
  | .protReset => Sys2Proof.Machine.execProtReset s
  | .protQuery => Sys2Proof.Machine.execProtQuery s
  | .holdoffExpiry k ch => Sys2Proof.Machine.execHoldoffExpiry k ch s
  | .tunPower probe => Sys2Proof.Machine.execTunPower probe s
  | .tunRegion => Sys2Proof.Machine.execTunRegion s
  | .tunThreshold => Sys2Proof.Machine.execTunThreshold s
  | .tunTune => Sys2Proof.Machine.execTunTune s
  | .tunSeek => Sys2Proof.Machine.execTunSeek s
  | .tunScan => Sys2Proof.Machine.execTunScan s
  | .tunAbort => Sys2Proof.Machine.execTunAbort s
  | .tunQuery => Sys2Proof.Machine.execTunQuery s
  | .stlistRead => Sys2Proof.Machine.execStlistRead s
  | .stlistClear => Sys2Proof.Machine.execStlistClear s
  | .tunerTransactionComplete r => Sys2Proof.Machine.execTunerTransactionComplete r s
  | .settleTimeExpiry => Sys2Proof.Machine.execSettleTimeExpiry s
  | .alignmentSearchExpiry => Sys2Proof.Machine.execAlignmentSearchExpiry s
  | .qualityWaitExpiry => Sys2Proof.Machine.execQualityWaitExpiry s
  | .monitorRead reading => Sys2Proof.Machine.execMonitorRead reading s
  | .alternateIdentGroup group => Sys2Proof.Machine.execAlternateIdentGroup group s
  | .alternateIdentTimeout => Sys2Proof.Machine.execAlternateIdentTimeout s
  | .stmemLockmode => Sys2Proof.Machine.execStmemLockmode s
  | .stmemPreset => Sys2Proof.Machine.execStmemPreset s
  | .stmemUnlock => Sys2Proof.Machine.execStmemUnlock s
  | .stmemFlush => Sys2Proof.Machine.execStmemFlush s
  | .stmemQuery => Sys2Proof.Machine.execStmemQuery s
  | .stationDataGroup group => Sys2Proof.Machine.execStationDataGroup group s
  | .announcementTimeout => Sys2Proof.Machine.execAnnouncementTimeout s
  | .groupTimerExpiry => Sys2Proof.Machine.execGroupTimerExpiry s

end Sys2Proof.Machine
end

