-- ==== Sys2Proof/Safety.lean ====
section
/-! DEFINITION. What the statements are written with: the invariants the spec gives, a command at the head of the command queue and
its reply, and what a state is apart from its notices, or apart from what is playing. -/

namespace Sys2Proof.Safety

open Sys2Proof.Machine

/-- Messages and reservations never exceed 32 (R188). -/
def QueueBound (s : State) : Prop := s.control.outgoing.length + s.control.reservations ≤ 32

/-- At most one notice of each kind is in the outgoing queue (R188). -/
def OneNoticeEach (s : State) : Prop :=
  ∀ k : NoticeKind, (s.control.outgoing.filter fun m => m.kind == k.byte).length ≤ 1

/-- The command queue holds at most 8 commands (R185). -/
def CommandBound (s : State) : Prop := s.control.commands.length ≤ 8

/-- A list of stations in strictly ascending (band, channel) order (R162). -/
def Ascending : List Station → Prop
  | [] => True
  | [_] => True
  | a :: b :: rest => stationKey a.band a.channel < stationKey b.band b.channel ∧ Ascending (b :: rest)

/-- The station list holds at most 48 entries in strictly ascending order (R162). -/
def StationListRight (s : State) : Prop := s.stations.length ≤ 48 ∧ Ascending s.stations

/-- The sum of the three allocations stays within the pool (R66). -/
def PoolBound (s : State) : Prop :=
  (s.zone 0).allocation + (s.zone 1).allocation + (s.zone 2).allocation ≤ Config.poolWords

/-! ## A host command and its reply -/

/-- `c` stands at the head of the command queue and passes the form check (R187). -/
def Heads (s : State) (c : Command) : Prop := s.control.commands.head? = some c ∧ c.formRight = true

/-- The command at the head has left the queue. -/
def popped (s : State) : State := { s with control := { s.control with commands := s.control.commands.tail } }

/-- `s` with command `c` taken from the head of the command queue and its reply placed at the tail of the outgoing queue: result
code, kind of the command, data (R187, 11.2). -/
def answered (s : State) (c : Command) (r : Result) (data : List Byte) : State :=
  { s with control := { s.control with
      commands := s.control.commands.tail
      outgoing := s.control.outgoing ++ [{ kind := 0x80, tag := c.tag, payload := r.code :: c.kind :: data }] } }

/-- Two bytes, the first most significant, as a two's complement value (R186). -/
def word2 (hi lo : Byte) : Int := (hi ++ lo).toInt

/-- The two bytes of a two's complement value, the first most significant (R186). -/
def bytes2 (x : Int) : List Byte := [(BitVec.ofInt 16 x).extractLsb' 8 8, (BitVec.ofInt 16 x).extractLsb' 0 8]

/-- The four bytes of a word, the first most significant (R186). -/
def bytes4 (x : BitVec 32) : List Byte := [x.extractLsb' 24 8, x.extractLsb' 16 8, x.extractLsb' 8 8, x.extractLsb' 0 8]

/-- The byte of an index. -/
def byteOf {n : Nat} (i : Fin n) : Byte := BitVec.ofNat 8 i.val

/-- The widths in bytes of the fields of each command kind, in the order in which its entry lists them (R186). MATRIX.LOAD, whose fields its own
counts give, is not among them (R98). -/
def fieldWidths : List (Byte × List Nat) :=
  [(0x01, []), (0x02, [2]), (0x10, [1, 1, 1, 1, 1, 1, 1, 1, 1, 1, 1, 1, 2, 2]), (0x11, [1, 1]), (0x12, [1]),
   (0x20, [1, 1]), (0x21, [1, 1]), (0x22, [1, 2]), (0x23, [1, 2]), (0x24, [1, 1]), (0x25, [1, 1, 2]), (0x26, [1]), (0x27, [1, 1, 1, 2]),
   (0x28, [1, 2]), (0x29, [1, 1]), (0x2A, [1, 1]), (0x2B, [1]), (0x2C, [1]), (0x30, [1]),
   (0x38, [1, 1, 1, 1, 1, 1, 1, 1, 1, 1, 1, 1, 1]), (0x39, [1, 1, 4, 4, 4, 4, 4]), (0x3B, [1, 1]),
   (0x40, [1, 1, 1, 1, 6, 1, 1]), (0x41, [1]), (0x42, [1, 2]), (0x43, [1, 2]), (0x44, [1, 2]), (0x45, [1, 1]),
   (0x50, [1]), (0x51, []), (0x52, []), (0x53, []), (0x58, [6, 1]), (0x59, [6]),
   (0x60, [1]), (0x61, [1]), (0x62, [2, 2, 2, 1]), (0x63, [1, 2]), (0x64, [1]), (0x65, [1]), (0x66, []), (0x67, []), (0x68, [1, 1]), (0x69, []),
   (0x70, [1]), (0x71, [1, 2]), (0x72, [1, 2]), (0x73, []), (0x74, [1])]

/-- The rows that execute a host command, each with the kind it executes (11.2) and whether it may give the link something to do; the
amplifier link takes a request that finds it IDLE at once (R127). -/
def hostRows : List (Instr × Byte × Bool) :=
  [(.sysReset, 0x01, false), (.noteMask, 0x02, false), (.srcDefine, 0x10, false), (.srcEnable, 0x11, false), (.srcQuery, 0x12, false),
   (.zonePower, 0x20, false), (.zoneSource, 0x21, false), (.zoneVolume, 0x22, false), (.zoneMaxvol, 0x23, false),
   (.zoneMute, 0x24, false), (.zonePush, 0x25, false), (.zonePop, 0x26, false), (.zoneAnnounce, 0x27, false),
   (.zoneLipsync, 0x28, false), (.zoneDrc, 0x29, false), (.zoneUpmix, 0x2A, false), (.zoneQuery, 0x2B, false),
   (.zoneFlagsClear, 0x2C, false), (.decQuery, 0x30, false), (.layoutSet, 0x38, false), (.xoverLoad, 0x39, false),
   (.matrixLoad, 0x3A, false), (.matrixMode, 0x3B, false), (.slotAssign, 0x40, true), (.slotRelease, 0x41, true),
   (.slotDistance, 0x42, false), (.slotTrim, 0x43, false), (.slotLimit, 0x44, false), (.slotQuery, 0x45, false),
   (.linkStart, 0x50, true), (.linkEnum, 0x51, true), (.linkReset, 0x52, true), (.linkQuery, 0x53, false), (.protReset, 0x58, true),
   (.protQuery, 0x59, false), (.tunPower true, 0x60, false), (.tunPower false, 0x60, false), (.tunRegion, 0x61, false),
   (.tunThreshold, 0x62, false), (.tunTune, 0x63, false), (.tunSeek, 0x64, false), (.tunScan, 0x65, false), (.tunAbort, 0x66, false),
   (.tunQuery, 0x67, false), (.stlistRead, 0x68, false), (.stlistClear, 0x69, false), (.stmemLockmode, 0x70, false),
   (.stmemPreset, 0x71, false), (.stmemUnlock, 0x72, false), (.stmemFlush, 0x73, false), (.stmemQuery, 0x74, false)]

/-- The commands whose first field is a zone and which are not render commands, with their rows (R29 to R40). -/
def zoneRows : List (Instr × Byte) :=
  [(.zonePower, 0x20), (.zoneSource, 0x21), (.zoneMaxvol, 0x23), (.zonePush, 0x25), (.zonePop, 0x26), (.zoneAnnounce, 0x27),
   (.zoneQuery, 0x2B), (.zoneFlagsClear, 0x2C)]

/-- The render commands of a zone, with their rows (R191). -/
def zoneRenderRows : List (Instr × Byte) :=
  [(.zoneVolume, 0x22), (.zoneMute, 0x24), (.zoneLipsync, 0x28), (.zoneDrc, 0x29), (.zoneUpmix, 0x2A), (.layoutSet, 0x38),
   (.xoverLoad, 0x39), (.matrixLoad, 0x3A), (.matrixMode, 0x3B)]

/-- Every render command, with its row (R191). -/
def renderRows : List (Instr × Byte) := zoneRenderRows ++ [(.slotDistance, 0x42), (.slotTrim, 0x43), (.slotLimit, 0x44)]

/-- The code of a size (5.1). -/
def sizeByte : Size → Byte
  | .absent => 0
  | .small => 1
  | .large => 2

/-- The bytes of a matrix row in MATRIX.LOAD: its role, its coefficients (R98). -/
def rowBytes (r : MatrixRow) : List Byte := byteOf r.role :: r.coefs.flatMap bytes2

/-- The link holds nothing that it could start: no enumeration or join pending and no transaction waiting. -/
def LinkRested (l : Link) : Prop := l.enumPending = none ∧ l.joinPending = false ∧ l.urgent = [] ∧ l.ordinary = []

/-! ## A state apart from its notices -/

/-- `s` with the pending records and the group record put aside (R191). -/
def unstaged (s : State) : State :=
  { s with
    zones := s.zones.map fun x => { x with staged := .empty }
    slots := s.slots.map fun x => { x with staged := .empty }
    control := { s.control with group := none } }

/-- No notice is raised: between events it is so, since the end of an event places or latches what was raised (R188, log 4). -/
def Calm (s : State) : Prop := s.raised = State.reset.raised

/-- A message that is a notice. -/
def IsNotice (m : Message) : Prop := ∃ k : NoticeKind, m.kind = k.byte ∧ m.tag = 0

/-- `s` with everything that belongs to notices put aside: the changed sets, the counts a notice carries, what is raised and latched,
and the outgoing queue. -/
def hushed (s : State) : State :=
  { s with
    changedPorts := [], changedZones := [], changedDecoders := [], changedFormats := [], changedClips := [], changedSlots := [],
    changedProt := [], allRemoved := false
    link := { s.link with changed := [] }
    stationData := { s.stationData with starts := 0, ends := 0 }
    raised := State.reset.raised
    control := { s.control with
      outgoing := [], latched := State.reset.raised, groupsExpired := 0, commandsDiscarded := 0, zonesDiscarded := [] } }

/-- The outgoing queue of `t` is that of `x` with notices after it. -/
def NoticesAdded (x t : State) : Prop :=
  ∃ notices, (∀ m ∈ notices, IsNotice m) ∧ t.control.outgoing = x.control.outgoing ++ notices

/-- `t` is `x` but for notices: nothing but what belongs to notices differs, and the outgoing queue has gained notices only. -/
def Noted (x t : State) : Prop := hushed t = hushed x ∧ NoticesAdded x t

/-! ## Changed sets -/

/-- A number joins a changed set: the set holds it and what it held, each once and in ascending order as before (R12, R24, R60, R61,
R82, R117, R136). -/
def Joined (n : Nat) (before after : List Nat) : Prop :=
  (∀ m, m ∈ after ↔ m = n ∨ m ∈ before) ∧ (before.Pairwise (· < ·) → after.Pairwise (· < ·))

/-- A notice of kind `k`, unless masked, is in the outgoing queue or latched (R188). -/
def Told (k : NoticeKind) (t : State) : Prop :=
  t.control.notReady = false → t.control.enabled[k.number] = true →
    t.control.latched[k.number] = true ∨ ∃ m ∈ t.control.outgoing, m.kind = k.byte

/-- `s` with what the notices of the kinds `placed` carry emptied: their changed sets, the all-removed mark, the counts of ANNOUNCE and of
GROUP (R12, R24, R60, R61, R82, R117, R136, R151, R183, R194). -/
def emptied (s : State) (placed : List NoticeKind) : State :=
  { s with
    changedZones := if .zone ∈ placed then [] else s.changedZones
    changedPorts := if .source ∈ placed then [] else s.changedPorts
    changedDecoders := if .decoder ∈ placed then [] else s.changedDecoders
    changedFormats := if .format ∈ placed then [] else s.changedFormats
    changedClips := if .clip ∈ placed then [] else s.changedClips
    changedSlots := if .slot ∈ placed then [] else s.changedSlots
    changedProt := if .protect ∈ placed then [] else s.changedProt
    allRemoved := if .protect ∈ placed then false else s.allRemoved
    link := if .link ∈ placed then { s.link with changed := [] } else s.link
    stationData := if .announce ∈ placed then { s.stationData with starts := 0, ends := 0 } else s.stationData
    control := if .group ∈ placed then { s.control with groupsExpired := 0, commandsDiscarded := 0, zonesDiscarded := [] } else s.control }

/-! ## A state apart from what is playing -/

/-- A zone with everything put aside that follows from what it plays: its selected source and every setting stay. -/
def zoneSettings (x : Zone) : Zone :=
  { Zone.reset 0 with
    source := x.source, volume := x.volume, maxVolume := x.maxVolume, mute := x.mute, lipsync := x.lipsync, policy := x.policy,
    annSource := x.annSource, annVolume := x.annVolume, dynamicGain := x.dynamicGain, upmix := x.upmix, matrixMode := x.matrixMode,
    annMissed := x.annMissed, stack := x.stack, layout := x.layout, high := x.high, low := x.low, store := x.store, staged := x.staged }

/-- A slot with everything put aside that follows from what its zone plays: its assignment, settings, reduction, flags and counter
stay. -/
def slotSettings (x : Slot) : Slot :=
  { Slot.reset with
    assigned := x.assigned, distance := x.distance, trim := x.trim, limit := x.limit, reduction := x.reduction,
    overflow := x.overflow, limited := x.limited, clips := x.clips, staged := x.staged }

/-- `s` with everything put aside that follows from what the zones play: the wait list, the decoders, the zones and slots but for
their settings, the rates of the lanes; and everything that belongs to notices. -/
def offAir (s : State) : State :=
  { hushed s with
    waitList := [], decoders := State.reset.decoders, zones := s.zones.map zoneSettings, slots := s.slots.map slotSettings,
    lineRates := State.reset.lineRates, ampRates := [] }

/-- `t` is `x` but for what the zones play, and for notices. -/
def Replayed (x t : State) : Prop := offAir t = offAir x ∧ NoticesAdded x t

/-- The slots and lanes at an entry of zone `z` to RUNNING at rate `r`, from `s` to `t`: every slot of the zone has its crossover state
and delay line zeroed and g at 0, its speaker delay computed on a `fresh` entry, from ACQUIRING, and kept on one from HELD, and its state decided
again by the checks of R103; its ramp target is set when the first block has `begun`. Its lane takes the rate. Other slots and lanes stay (R20, R75,
R76, R78, R79, R103, R106, R111). -/
def SlotsStarted (s t : State) (z : ZoneId) (r : RateCode) (fresh begun : Bool) : Prop :=
  (∀ i a, (s.slot i).assigned = some a → a.zone = z →
    let x := s.slot i
    let y := t.slot i
    let state : SlotState := if (s.missing a.dest).isSome then .silent else if (s.protOf a.dest).1 then .shut
      else if 0 < x.reduction then .limited else .active
    y.assigned = x.assigned ∧ y.reduction = x.reduction ∧ y.state = state ∧
    y.delay = (if fresh then (x.distance * Config.rateHz r + 17150) / 34300 else x.delay) ∧ y.line = [] ∧
    y.u1 = 0 ∧ y.u2 = 0 ∧ y.y1 = 0 ∧ y.y2 = 0 ∧ y.g = 0 ∧
    y.target = (if begun = true ∧ (s.zone z).mute = false ∧ (state = .active ∨ state = .limited) then 32 else 0) ∧
    (s.ampRates.Pairwise (fun a b => a.1.toNat < b.1.toNat) → t.laneRate a.dest.lane = r)) ∧
  (∀ i, (∀ a, (s.slot i).assigned = some a → a.zone ≠ z) → t.slot i = s.slot i) ∧
  (∀ l, (∀ i a, (s.slot i).assigned = some a → a.zone = z → a.dest.lane ≠ l) → t.laneRate l = s.laneRate l)

/-! ## Ports -/

/-- The record a port takes on becoming named, its mark clear, its watcher reset and its timer stopped: P0 to P5 at NO_SIGNAL (R2); the converter
ports LOCKED at 48000 Hz with PCM (R5); P10 by the tuner's state: OFF with the tuner OFF, LOCKED at 48000 Hz with PCM in IDLE, NO_SIGNAL else
(R6). -/
def portNamed (p : PortId) (tuner : TunerState) : Port :=
  let blank : Port :=
    { state := .off, rate := none, content := .undetermined, nonAudio := false, stability := none, phase := .seek, count := 0 }
  let silent := { blank with state := .noSignal }
  let locked := { blank with state := .locked, rate := some 2, content := .pcm }
  if p.val ≤ 5 then silent else if p.val ≤ 9 then locked
  else match tuner with
    | .off => blank
    | .idle => locked
    | _ => silent

/-- P10 is as R6 gives it. -/
def TunerPortRight (s : State) : Prop := s.port 10 = if s.named 10 then portNamed 10 s.tuner.state else Port.reset

/-! ## A state apart from the tuner -/

/-- `s` with everything put aside that a change of the tuner's state moves: the tuner, its port, the station data decoder, what the zones
play, and the context an announcement takes and gives back; and everything that belongs to notices. -/
def offTuner (s : State) : State :=
  { offAir s with
    tuner := Tuner.reset, stationData := StationData.reset, ports := s.ports.set 10 Port.reset,
    zones := s.zones.map fun x => { zoneSettings x with source := none, volume := 0, mute := false, stack := [], annMissed := false } }

/-- `t` is `x` but for the tuner and what follows from it, and for notices. -/
def Retuned (x t : State) : Prop := offTuner t = offTuner x ∧ NoticesAdded x t

/-! ## A state apart from the link -/

/-- `s` with the link controller, the protection unit and what they tell the slots put aside, and everything that follows from what the
zones play; and everything that belongs to notices. -/
def offLink (s : State) : State :=
  { offAir s with
    link := Link.reset, prot := State.reset.prot, slots := s.slots.map fun y => { slotSettings y with reduction := 0 } }

/-- `t` is `x` but for the link, the protection records and what they tell the slots, and for notices. -/
def Relinked (x t : State) : Prop := offLink t = offLink x ∧ NoticesAdded x t

/-! ## Modules and their channels -/

/-- A transaction of kind `k` for module `id`, its payload the mask of the channels `p`, waits in `t` or is in flight (R126, R127). -/
def Asked (t : State) (id : Identity) (k : TxnKind) (p : Nat → Prop) : Prop :=
  ∃ y, (t.link.exchange = .txn y false ∨ y ∈ t.link.urgent ++ t.link.ordinary ++ t.link.marks) ∧ y.identity = id ∧ y.kind = k ∧
    ∀ ch, 1 ≤ ch → ch ≤ 8 → (y.payload.getLsbD (ch - 1) = true ↔ p ch)

/-- The muted channels of a module's records (R146). -/
def MutedIn (rs : List ProtRecord) (ch : Nat) : Prop := (rs[ch - 1]?).any (·.muted) = true

/-- A record as it is created (R138). -/
def newRecord : ProtRecord :=
  { state := .normal, cause := .none, reduction := 0, muted := false, count := 0, windowStart := 0, holdOff := none }

/-- The effective reduction: with the supply flag set 12 more, at most 36 (R139). -/
def effectiveOf (supplyLow : Bool) (r : ProtRecord) : Nat := min 36 (r.reduction + if supplyLow then 12 else 0)

/-- The state the five checks of R103 give a slot of zone `z` on channel `ch` of a PRESENT module with `n` channels. -/
def channelSlotState (n ch : Nat) (muted : Bool) (z : Zone) (reduction : Nat) : SlotState :=
  if n < ch then .silent else if muted then .shut else if z.state ≠ .running ∧ z.rampOut = false then .silent
  else if 0 < reduction then .limited else .active

/-- What follows when the record of channel `ch` of the module of entry `e` goes from `r` to `r'`, its supply flag from `low` to `low'`, its
records being `rs` then: when muted or the effective reduction has changed, the one slot it feeds takes the effective reduction and is decided
again (R103, R146); when the channel has entered SHUT or LATCHED or changed muted and the module is PRESENT, a WRITE_MUTE with the module's whole
mute mask is requested (R146). -/
def ChannelTold (s t : State) (e : Entry) (ch : Nat) (r r' : ProtRecord) (low low' : Bool) (rs : List ProtRecord) : Prop :=
  (∀ i a, (s.slot i).assigned = some a → a.dest = .amp e.identity ch →
    (∀ j b, (s.slot j).assigned = some b → b.dest = .amp e.identity ch → j = i) →
    r'.muted ≠ r.muted ∨ effectiveOf low' r' ≠ effectiveOf low r →
    (t.slot i).reduction = effectiveOf low' r' ∧
    (t.slot i).state = if e.presence = .absent then .silent
      else channelSlotState e.faults.length ch r'.muted (s.zone a.zone) (effectiveOf low' r')) ∧
  (e.presence = .present → r'.muted ≠ r.muted ∨ (r'.state ≠ r.state ∧ (r'.state = .shut ∨ r'.state = .latched)) →
    Asked t e.identity .writeMute (MutedIn rs))

/-- The slots of module `id` when it has become PRESENT with `n` channels, or its count has changed to `n`, and its protection module `old` has
become `new`: each is decided again, and takes the effective reduction of its channel, 0 without a record (R103, R124, R133, R146). -/
def ModuleSlotsTold (s t : State) (id : Identity) (n : Nat) (old new : Option ProtModule) : Prop :=
  let record := fun (m : Option ProtModule) (ch : Nat) => m.bind fun m => m.records[ch - 1]?
  let effective := fun (m : Option ProtModule) (ch : Nat) => (record m ch).elim 0 (effectiveOf (m.any (·.supplyLow)))
  ∀ i a ch, (s.slot i).assigned = some a → a.dest = .amp id ch → 1 ≤ ch →
    (t.slot i).state = channelSlotState n ch ((record new ch).any (·.muted)) (s.zone a.zone) (t.slot i).reduction ∧
    (ch ≤ 8 → (∀ j b, (s.slot j).assigned = some b → b.dest = .amp id ch → j = i) → (s.slot i).reduction = effective old ch →
      (t.slot i).reduction = effective new ch)

/-- What a module that becomes PRESENT in entry `w.entry` with `n` channels does to the protection unit and the slot stage (R107, R124, R138,
R148): without records held, new ones are created; else they are cut or filled up to `n`, those in SHUT with cause LINK go to RECOVERING, still
muted, their reduction 0 and their hold-off timer started, and the supply flag is cleared; a WRITE_MUTE with the whole mute mask and a WRITE_ENABLE
with the enable mask are requested, that mask with the bit of every assigned channel, one beyond `n` too (the model's choice, log 48); its slots
are decided again; other modules' records stay. -/
def Admitted (s t : State) (w : Winner) (n : Nat) : Prop :=
  let held := s.protModule w.entry
  ∃ p, t.protModule w.entry = some p ∧ p.supplyLow = false ∧ p.temperature = held.bind (·.temperature) ∧
    p.records = (held.elim (List.replicate n newRecord) fun m =>
      (m.records.take n ++ List.replicate (n - m.records.length) newRecord).map fun r =>
        if r.state = .shut ∧ r.cause = .link then { r with state := .recovering, muted := true, reduction := 0, holdOff := some s.now } else r) ∧
    (∀ j, j ≠ w.entry → t.protModule j = s.protModule j) ∧
    Asked t w.identity .writeMute (MutedIn p.records) ∧
    Asked t w.identity .writeEnable (fun ch => ∃ i a, (s.slot i).assigned = some a ∧ a.dest = .amp w.identity ch) ∧
    ModuleSlotsTold s t w.identity n held (some p)

/-! ## A group that closes -/

/-- What a zone's record is in `t` when a group that was open in `s` closes (R193): its pending record is empty and each staged value stands in
its field, at once also in a RUNNING zone (the model's choice, log 5), a staged volume clamped to the maximum in force (R31). A RUNNING zone's
derivation, recomputation and new sets await its next block boundary (R95, R67, R96). A HELD zone's matrix is kept, stale when an input of the
derivation was staged, and a staged lip-sync recomputes its delay and allocation at once, with what the pool has left by then, the zones taken in
order of their numbers (the model's choice, log 53); else delay and allocation stay. Nothing else of the record changes. -/
def ZoneApplied (s t : State) (z : ZoneId) : Prop :=
  let x := s.zone z
  let y := t.zone z
  let p := x.staged
  let running := x.state == .running
  let derives := p.upmix.isSome || p.layout.isSome || !p.loads.isEmpty || p.mode.isSome
  y = { x with
    staged := .empty, volume := y.volume, mute := p.mute.getD x.mute, lipsync := p.lipsync.getD x.lipsync,
    dynamicGain := p.dynamicGain.getD x.dynamicGain, upmix := p.upmix.getD x.upmix, layout := p.layout.getD x.layout,
    high := p.high.getD x.high, low := p.low.getD x.low, matrixMode := p.mode.getD x.matrixMode,
    store := p.loads.foldl writeStore x.store,
    deriveDue := x.deriveDue || (running && derives), stale := x.stale || (x.state == .held && derives),
    highDue := x.highDue || (running && p.high.isSome), lowDue := x.lowDue || (running && p.low.isSome),
    lipsyncDue := y.lipsyncDue, delay := y.delay, allocation := y.allocation, delayClamped := y.delayClamped, lines := y.lines } ∧
  (-160 ≤ x.maxVolume → y.volume = p.volume.elim x.volume (fun v => max (-160) (min x.maxVolume v))) ∧
  (x.state ≠ .held ∨ p.lipsync = none →
    y.lipsyncDue = (x.lipsyncDue || (running && p.lipsync.isSome)) ∧ y.delay = x.delay ∧ y.allocation = x.allocation ∧
    y.delayClamped = x.delayClamped ∧ y.lines = x.lines) ∧
  (∀ ms e r map, x.state = .held → p.lipsync = some ms → x.source = some e → x.rate = some r → x.map = some map →
    let others := ((allZones.filter (· ≠ z)).map fun o => if o < z then (t.zone o).allocation else (s.zone o).allocation).sum
    let req := (min 250 (ms + (s.source e).offset) * Config.rateHz r + 500) / 1000
    y.lipsyncDue = false ∧ y.allocation = map.length * y.delay ∧
    (map.length * req ≤ 172544 - others → y.delay = req ∧ y.delayClamped = x.delayClamped) ∧
    (172544 - others < map.length * req → y.delay = (172544 - others) / map.length ∧ y.delayClamped = true) ∧
    y.lines = if y.delay = x.delay then x.lines else List.replicate map.length [])

/-- What a slot's record is in `t` when a group that was open in `s` closes (R193), `own` being the limit the closing command itself stages: no
staged value is left and each stands in its field; the delay of a new distance awaits the next block boundary of a RUNNING zone and is computed at
once with the rate a HELD zone holds, its line zeroed when the delay differs (R111). Nothing else of the record changes. -/
def SlotApplied (s t : State) (own : Option Nat) (i : SlotId) : Prop :=
  let x := s.slot i
  let y := t.slot i
  let p := x.staged
  let zoned := fun (st : ZoneState) => x.assigned.any fun a => (s.zone a.zone).state == st
  y = { x with
    staged := .empty, distance := p.distance.getD x.distance, trim := p.trim.getD x.trim, limit := own.getD (p.limit.getD x.limit),
    delay := y.delay, line := y.line, distanceDue := y.distanceDue } ∧
  (zoned .held = false ∨ p.distance = none →
    y.distanceDue = (x.distanceDue || (zoned .running && p.distance.isSome)) ∧ y.delay = x.delay ∧ y.line = x.line) ∧
  (∀ a r d, x.assigned = some a → (s.zone a.zone).state = .held → (s.zone a.zone).rate = some r → p.distance = some d →
    y.distanceDue = false ∧ y.delay = (d * Config.rateHz r + 17150) / 34300 ∧ y.line = if y.delay = x.delay then x.line else [])

/-- The group is closed in `t`, and every zone and slot has what was staged for it in `s`, the limit `own` of the closing command too (R193). -/
def GroupApplied (s t : State) (own : SlotId → Option Nat) : Prop :=
  t.control.group = none ∧ (∀ z : ZoneId, ZoneApplied s t z) ∧ ∀ i : SlotId, SlotApplied s t (own i) i

/-! ## Invariants a step keeps -/

/-- The decoder wait list holds no zone twice, and only zones in ACQUIRING with reason WAIT_DECODER (R26). -/
def WaitListRight (s : State) : Prop :=
  s.waitList.Nodup ∧ ∀ z ∈ s.waitList, (s.zone z).state = .acquiring ∧ (s.zone z).reason = some .waitDecoder

/-- The entries of cause ANNOUNCEMENT on a stack. -/
def announcements (x : Zone) : List StackEntry := x.stack.filter fun t => t.cause == .announcement

/-- Of the entries of a stack at most one has cause ANNOUNCEMENT, none while no announcement is active; a zone in STANDBY has an empty stack
(section 2.6, R37, R38). -/
def StacksRight (s : State) : Prop :=
  ∀ z : ZoneId, let x := s.zone z
    (announcements x).length ≤ 1 ∧ (s.stationData.active = none → announcements x = []) ∧ (x.state = .standby → x.stack = [])

/-- No port is bound to two decoders (R51). -/
def DecoderPortsRight (s : State) : Prop := ∀ p : PortId, ¬ ((s.decoder 0).port = some p ∧ (s.decoder 1).port = some p)

/-- A destination belongs to at most one slot, and all slots on one lane to a single zone (R105). -/
def LanesRight (s : State) : Prop :=
  ∀ (i j : SlotId) (a b : Assignment), i ≠ j → (s.slot i).assigned = some a → (s.slot j).assigned = some b →
    a.dest ≠ b.dest ∧ (a.dest.lane = b.dest.lane → a.zone = b.zone)

/-- The winner a round has decided for (R123). -/
def winner (x : Exchange) : Option Winner :=
  match x with
  | .assign w _ | .desc w _ => some w
  | _ => none

/-- The identities of the filled entries are distinct, and so are the addresses of the PRESENT ones; every address is one of 1 to 6 (R119); the
identity and address decided for the winner of a round are in no other entry (R123). -/
def TableRight (s : State) : Prop :=
  (∀ (j k : EntryId) (d e : Entry), j ≠ k → s.entry j = some d → s.entry k = some e →
    d.identity ≠ e.identity ∧ (d.presence = .present → e.presence = .present → d.address ≠ e.address)) ∧
  (∀ (k : EntryId) (e : Entry), s.entry k = some e → 1 ≤ e.address ∧ e.address ≤ 6) ∧
  ∀ w, winner s.link.exchange = some w → 1 ≤ w.address ∧ w.address ≤ 6 ∧
    ∀ (k : EntryId) (e : Entry), k ≠ w.entry → s.entry k = some e →
      e.identity ≠ w.identity ∧ (e.presence = .present → e.address ≠ w.address)

/-- The ranks of the unlocked entries of a set. -/
def ranks (t : StationSet) : List Nat := t.toList.filterMap fun e => e.bind (·.rank)

/-- Station memory (R170): every entry lies in the set of its tag, no tag stands twice, and the ranks of the n unlocked entries of a set are
1 to n. -/
def StationMemoryRight (m : StationMemory) : Prop :=
  ∀ i : Fin 16,
    (∀ (v w : Fin 4) (d e : StationEntry), v ≠ w → (m.sets[i])[v] = some d → (m.sets[i])[w] = some e →
      ¬ (d.band = e.band ∧ d.channel = e.channel)) ∧
    (∀ (w : Fin 4) (e : StationEntry), (m.sets[i])[w] = some e → setIndex e.band e.channel = i) ∧
    (ranks m.sets[i]).Perm (List.range' 1 (ranks m.sets[i]).length)

/-- The command processor's bounds: at most 8 commands, messages and reservations at most 32, at most one notice of each kind; during
initialisation all three are empty; between events nothing is raised (R185, R188, R195). -/
def ControlRight (s : State) : Prop :=
  CommandBound s ∧ QueueBound s ∧ OneNoticeEach s ∧ Calm s ∧
  (s.control.notReady = true → s.control.commands = [] ∧ s.control.longOps = [] ∧ s.control.outgoing = [])

/-- The zones' bounds: the sum of the allocations stays within the pool, a zone that is neither RUNNING nor HELD has none, a volume lies
between −160 and the maximum and the maximum is at most 24, at most four contexts are stacked (R66, R18, R31, R32, R34); the wait list, the
stacks, the ports of the decoders and the destinations of the slots are as R26, section 2.6, R51 and R105 say. -/
def ZonesRight (s : State) : Prop :=
  PoolBound s ∧ (∀ z : ZoneId, let x := s.zone z
    ((x.state ≠ .running ∧ x.state ≠ .held) → x.allocation = 0) ∧
    -160 ≤ x.volume ∧ x.volume ≤ x.maxVolume ∧ x.maxVolume ≤ 24 ∧ x.stack.length ≤ 4) ∧
  WaitListRight s ∧ StacksRight s ∧ DecoderPortsRight s ∧ LanesRight s

/-- The records in order: the station list (R162); the model's list of amplifier lane rates (log 28); a protection record is muted in SHUT
and LATCHED, and not in NORMAL and WARNED (R138); the module table (R119) and station memory (R170). -/
def RecordsRight (s : State) : Prop :=
  StationListRight s ∧ s.ampRates.Pairwise (fun a b => a.1.toNat < b.1.toNat) ∧
  (∀ k m, s.protModule k = some m → ∀ r ∈ m.records,
    (r.state = .shut ∨ r.state = .latched → r.muted = true) ∧ (r.state = .normal ∨ r.state = .warned → r.muted = false)) ∧
  TableRight s ∧ StationMemoryRight s.stationMemory

end Sys2Proof.Safety
end

