-- ==== Sys2Proof/Certificates/Slice0/Obligations.lean ====
section
/-! DEFINITION. The statements for the provers. -/

open Sys2Proof Sys2Proof.Machine Sys2Proof.Safety

/-! ## The queue of waiting commands -/

/-- One step takes the command at the front of the queue and gives what that command does to the state with the queue's rest; with no command
waiting, it lets one millisecond pass and changes nothing else. The second half is the model's choice: log 1. -/
def Obligations.StepTakesFrontCommand : Prop :=
  (∀ (c : Instr) (rest : List Instr) (s : State), s.pending = c :: rest → step s = exec c { s with pending := rest }) ∧
  (∀ s : State, s.pending = [] → step s = .next { s with now := s.now + 1 })

/-! ## Resets -/

/-- A hard reset puts every block at its reset values, from every state. The waiting commands, the model's clock and its count of free
values go on: they are the model's own (logs 1, 2 and 8). -/
def Obligations.HardResetReloadsEverything : Prop :=
  ∀ s : State, exec .hardReset s =
    .next { State.reset with pending := s.pending, now := s.now, freeCount := s.freeCount }

/-- The reset values of every block as the spec's tables and rules give them: ports, source entries, zones with their settings, layouts and
crossover sets, the wait list, decoders, slots, lanes, the link with its join policy and counters, the protection unit, the tuner, the
station list, station memory, station data, the command processor, every changed set, and every word of delay memory (R2, R13, R18,
R50, R81, R85, R95 to R97, R102, R106, R115, R118, R119, R138, R152, R162, R170, R176, R185, R188, R191, R195). -/
def Obligations.ResetStateValues : Prop :=
  let r := State.reset
  let bypass : XoverSet := { b0 := 2 ^ 30, b1 := 0, b2 := 0, a1 := 0, a2 := 0 }
  (∀ p : PortId, (r.port p).state = .off ∧ (r.port p).nonAudio = false ∧ (r.port p).phase = .seek ∧ (r.port p).count = 0 ∧
    (r.port p).rate = none ∧ (r.port p).content = .undetermined ∧ (r.port p).stability = none) ∧
  (∀ e : SourceId, (r.source e).enabled = false ∧ (r.source e).port = 0 ∧ (r.source e).width = 24 ∧ (r.source e).map = [0, 1] ∧
    (r.source e).trim = 0 ∧ (r.source e).offset = 0) ∧
  (∀ z : ZoneId, (r.zone z).state = .standby ∧ (r.zone z).source = none ∧ (r.zone z).stack = [] ∧ (r.zone z).decoder = none ∧
    (r.zone z).allocation = 0 ∧ (r.zone z).store = none ∧ (r.zone z).matrix = none ∧ (r.zone z).staged = .empty ∧
    (r.zone z).reason = none ∧ (r.zone z).rate = none ∧ (r.zone z).map = none ∧ (r.zone z).hold = none ∧ (r.zone z).stale = false ∧
    (r.zone z).volume = -80 ∧ (r.zone z).maxVolume = 24 ∧ (r.zone z).mute = false ∧ (r.zone z).lipsync = 0 ∧
    (r.zone z).policy = .ignore ∧ (r.zone z).annSource = none ∧ (r.zone z).annVolume = -80 ∧ (r.zone z).dynamicGain = true ∧
    (r.zone z).upmix = false ∧ (r.zone z).matrixMode = .default ∧ (r.zone z).delayClamped = false ∧ (r.zone z).annMissed = false ∧
    (r.zone z).high = bypass ∧ (r.zone z).low = bypass) ∧
  ((r.zone 0).layout.toList = [.large, .large, .large, .absent, .absent, .absent, .absent, .absent, .absent, .absent, .absent, .absent]) ∧
  (∀ z : ZoneId, z ≠ 0 →
    (r.zone z).layout.toList = [.large, .large, .absent, .absent, .absent, .absent, .absent, .absent, .absent, .absent, .absent, .absent]) ∧
  r.waitList = [] ∧
  (∀ d : DecoderId, r.decoder d = Decoder.reset ∧ (r.decoder d).state = .idle ∧ (r.decoder d).port = none ∧
    (r.decoder d).header = none ∧ (r.decoder d).metadata = none ∧ (r.decoder d).chain = none ∧ (r.decoder d).bad = 0 ∧
    (r.decoder d).lastCause = .none ∧
    (r.decoder d).counters = { good := 0, rejected := 0, syncLosses := 0, ignored := 0, jumps := 0, slips := 0 }) ∧
  (∀ i : SlotId, (r.slot i).assigned = none ∧ (r.slot i).state = .unassigned ∧ (r.slot i).overflow = false ∧
    (r.slot i).limited = false ∧ (r.slot i).clips = 0 ∧ (r.slot i).g = 0 ∧ (r.slot i).target = 0 ∧ (r.slot i).delay = 0 ∧
    (r.slot i).distance = 0 ∧ (r.slot i).trim = 0 ∧ (r.slot i).limit = 0 ∧ (r.slot i).reduction = 0 ∧ (r.slot i).u1 = 0 ∧
    (r.slot i).u2 = 0 ∧ (r.slot i).y1 = 0 ∧ (r.slot i).y2 = 0 ∧ (r.slot i).staged = .empty) ∧
  (∀ l : Lane, r.laneOwner l = none ∧ r.laneRate l = 2) ∧
  (∀ a : Nat, r.delayWord a = if a < 262144 then some 0 else none) ∧
  r.link.state = .held ∧ (∀ k : EntryId, r.entry k = none ∧ r.protModule k = none) ∧ r.link.urgent = [] ∧ r.link.ordinary = [] ∧
  r.link.marks = [] ∧ r.link.accept = false ∧ r.link.enumPending = none ∧ r.link.enumRun = none ∧ r.link.joinPending = false ∧
  r.link.stuck = false ∧ r.link.lastResult = none ∧
  r.link.counters = { completed := 0, naks := 0, stalls := 0, discarded := 0, roundsFailed := 0 } ∧
  r.tuner.state = .off ∧ r.tuner.band = .fm ∧ r.tuner.channel = 0 ∧ r.tuner.region = .khz9 ∧ r.tuner.alignment = 128 ∧
  r.tuner.strengthThreshold = 30 ∧ r.tuner.multipathThreshold = 40 ∧ r.tuner.followThreshold = 20 ∧ r.tuner.follow = false ∧
  r.tuner.quality = { strength := 0, multipath := 0, stereo := false } ∧ r.tuner.op = none ∧
  r.stations = [] ∧ (∀ i : Fin 16, ∀ w : Fin 4, (r.stationMemory.sets[i])[w] = none) ∧ r.stationData = StationData.reset ∧
  r.stationMemory.lockMode = false ∧ r.stationMemory.notStored = 0 ∧
  r.control.notReady = true ∧ r.control.dropped = false ∧ r.control.commands = [] ∧ r.control.longOps = [] ∧ r.control.outgoing = [] ∧
  (∀ k : NoticeKind, r.control.enabled[k.number] = true ∧ r.control.latched[k.number] = false) ∧ r.control.group = none ∧
  r.changedPorts = [] ∧ r.changedZones = [] ∧ r.changedDecoders = [] ∧ r.changedFormats = [] ∧ r.changedClips = [] ∧
  r.changedSlots = [] ∧ r.changedProt = [] ∧ r.allRemoved = false ∧ r.link.changed = []

/-- The end of initialisation places START, cause HARD, in the outgoing queue and clears NOT_READY; it changes nothing else (R195). The model's
choices: outside initialisation the event changes nothing (log 2), the part number in START takes two bytes (log 6), the revision number is
a free value (log 8). -/
def Obligations.InitialisationEndPlacesStart : Prop :=
  ∀ s : State,
    (s.control.notReady = true → exec .initialisationEnd s = .next { s with control := { s.control with
      notReady := false,
      outgoing := s.control.outgoing ++ [{ kind := 0xC0, tag := 0, payload := [0, 0x20, 0xD0, Config.revision, 1, 0] }] } }) ∧
    (s.control.notReady = false → exec .initialisationEnd s = .next s)

/-- SYS.RESET: the aborted replies of the long operations, in the order they were taken, and START with cause SOFT and the count of the commands
that stood behind it, are all the outgoing queue holds; every block has its reset values; station memory keeps its entries and its not-stored
counter, and its lock mode is off (R196). Waiting commands, clock, free values and the bytes of the last transfer are the model's own and go on
(logs 1, 2, 8, 21). The model's choices: the ABORTED reply of a tuner operation carries no data, that of a scan included (log 6), COMMAND_DROPPED
is clear after the reset (log 15), the part number in START takes two bytes (log 6), the revision number is a free value (log 8). What data the
aborted reply of a pending enumeration carries is left open here. -/
def Obligations.SoftResetEffect : Prop :=
  ∀ (s : State) (c : Command), Heads s c → c.kind = 0x01 →
    ∃ aborted : List Message,
      aborted.length = s.control.longOps.length ∧
      (∀ (j : Nat) (m : Message) (o : LongOp), aborted[j]? = some m → s.control.longOps[j]? = some o →
        m.kind = 0x80 ∧ m.tag = o.tag ∧ ∃ data, m.payload = 7 :: o.command :: data ∧ (o.kind = .tuner → data = []) ∧
          (∀ r, o.kind = .enumeration → s.link.enumRun = some r → r.origin = .host →
            data = [BitVec.ofNat 8 r.assigned, BitVec.ofNat 8 r.failed])) ∧
      exec .sysReset s = .next { State.reset with
        pending := s.pending, now := s.now, freeCount := s.freeCount, dataOut := s.dataOut,
        stationMemory := { s.stationMemory with lockMode := false },
        control := { Control.reset with
          notReady := false,
          outgoing := aborted ++ [{
            kind := 0xC0, tag := 0, payload := [1, 0x20, 0xD0, Config.revision, 0, BitVec.ofNat 8 (s.control.commands.length - 1)] }] } }

/-! ## Transfers -/

/-- The status byte: bit 7 NOT_READY, bit 6 attention, bit 5 COMMAND_DROPPED, bit 4 clear, bits 3..0 the free places of the command queue
(11.1). A STATUS transfer, or one of no known type, sends the status byte as it stood, clears COMMAND_DROPPED and changes no other state
(R184). The bytes after the status byte of an unknown type are free values (log 8). -/
def Obligations.StatusByteAndStatusTransfer : Prop :=
  (∀ s : State, s.control.commands.length ≤ 8 →
    s.statusByte.toNat = (if s.control.notReady then 128 else 0) + (if s.control.outgoing.isEmpty then 0 else 64) +
      (if s.control.dropped then 32 else 0) + (8 - s.control.commands.length)) ∧
  (∀ (s : State) (first : Byte) (n : Nat), 3 ≤ first.toNat →
    exec .statusTransfer s = .next { s with dataOut := [s.statusByte], control := { s.control with dropped := false } } ∧
    exec (.otherTransfer first n) s = .next { s with
      control := { s.control with dropped := false }, freeCount := s.freeCount + n,
      dataOut := s.statusByte :: (List.range n).map (fun i => Config.unstatedByte (s.freeCount + i)) })

/-- A WRITE transfer takes its frame into the tail of the command queue, or discards it and sets COMMAND_DROPPED, by the five conditions
of R185; the part sends the status byte and filler bytes of 0. Bytes after the frame are ignored. A reservation is a command's place in
the queue or a long operation in flight. After either reset the command queue is empty and there is no reservation. -/
def Obligations.WriteTransferTakesOrDiscards : Prop :=
  (∀ (s : State) (len kind tag flags : Byte) (payload after : List Byte),
    3 ≤ len.toNat → len.toNat ≤ 250 → payload.length + 3 = len.toNat →
    exec (.writeTransfer (len :: kind :: tag :: flags :: (payload ++ after))) s = .next { s with
      dataOut := s.statusByte :: List.replicate (4 + (payload ++ after).length) 0,
      control := { s.control with
        dropped := s.control.notReady || 8 ≤ s.control.commands.length ||
          32 ≤ s.control.outgoing.length + s.control.commands.length + s.control.longOps.length,
        commands := if s.control.notReady || 8 ≤ s.control.commands.length ||
            32 ≤ s.control.outgoing.length + s.control.commands.length + s.control.longOps.length
          then s.control.commands else s.control.commands ++ [{ kind := kind, tag := tag, flags := flags, payload := payload }] } }) ∧
  (∀ (s : State) (bytes : List Byte),
    (bytes = [] ∨ ∃ len rest, bytes = len :: rest ∧ (len.toNat < 3 ∨ 250 < len.toNat ∨ rest.length < len.toNat)) →
    exec (.writeTransfer bytes) s = .next { s with
      dataOut := s.statusByte :: List.replicate bytes.length 0, control := { s.control with dropped := true } }) ∧
  (∀ s t : State, exec .hardReset s = .next t → t.control.commands = [] ∧ t.control.longOps = [] ∧ t.control.dropped = false) ∧
  (∀ s t : State, (∃ c, Heads s c ∧ c.kind = 0x01) → exec .sysReset s = .next t → t.control.commands = [] ∧ t.control.longOps = [])

/-- A READ of an empty queue brings the single length byte 0; a READ released before the segment has been clocked out whole completes nothing:
the queue and the latches stand as they were (R184, R189). -/
def Obligations.ReadsThatCompleteNothing : Prop :=
  (∀ s : State, s.control.outgoing = [] →
    exec (.readTransfer 1) s = .next { s with dataOut := [s.statusByte, 0], control := { s.control with dropped := false } }) ∧
  (∀ (s : State) (m : Message) (rest : List Message) (n : Nat), s.control.outgoing = m :: rest →
    n < (m.segment s.control.segmentsDone).length →
    exec (.readTransfer n) s = .next { s with
      dataOut := s.statusByte :: (m.segment s.control.segmentsDone).take n, control := { s.control with dropped := false } })

/-- A READ that clocks out a whole segment brings it. One that is not the last has bit 0 of its flags set, and the message stays with one more
segment done: nothing is placed (R184). With the last one the message leaves the queue, and at most one latched notice is placed: the
lowest-numbered kind whose latch is set and of which no notice is in the queue, with the snapshot of that moment, its latch cleared and what it
carried emptied; without such a kind nothing is placed (R189). Nothing else changes. Between reads, a notice raised anew is placed when R188
allows it, and that clears its latch. That a segment holds the next 247 bytes of the payload is the model's choice (log 7). -/
def Obligations.ReadCompletesMessage : Prop :=
  (∀ (s : State) (m : Message) (rest : List Message),
    s.control.outgoing = m :: rest → m.payload.length ≤ 247 * (s.control.segmentsDone + 1) →
    let part := m.payload.drop (247 * s.control.segmentsDone)
    let read : State := { s with
      dataOut := s.statusByte :: BitVec.ofNat 8 (part.length + 3) :: m.kind :: m.tag :: 0 :: part,
      control := { s.control with dropped := false, outgoing := rest, segmentsDone := 0 } }
    (∀ k : NoticeKind, s.control.latched[k.number] = true → (∀ x ∈ rest, x.kind ≠ k.byte) →
      (∀ j : NoticeKind, j.number < k.number → s.control.latched[j.number] = false ∨ ∃ x ∈ rest, x.kind = j.byte) →
      exec (.readTransfer (part.length + 4)) s = .next { emptied read [k] with control := { (emptied read [k]).control with
        outgoing := rest ++ [{ kind := k.byte, tag := 0, payload := read.snapshot k }],
        latched := s.control.latched.set k.number false } }) ∧
    ((∀ k : NoticeKind, s.control.latched[k.number] = false ∨ ∃ x ∈ rest, x.kind = k.byte) →
      exec (.readTransfer (part.length + 4)) s = .next read)) ∧
  (∀ (s : State) (m : Message) (rest : List Message),
    s.control.outgoing = m :: rest → 247 * (s.control.segmentsDone + 1) < m.payload.length →
    exec (.readTransfer 251) s = .next { s with
      dataOut := s.statusByte :: 250 :: m.kind :: m.tag :: 1 :: (m.payload.drop (247 * s.control.segmentsDone)).take 247,
      control := { s.control with dropped := false, segmentsDone := s.control.segmentsDone + 1 } }) ∧
  (∀ (s : State) (k : NoticeKind), s.raised[k.number] = true → s.control.enabled[k.number] = true →
    (∀ x ∈ s.control.outgoing, x.kind ≠ k.byte) →
    s.control.outgoing.length + s.control.commands.length + s.control.longOps.length < 32 →
    (s.settleKind k).control.latched[k.number] = false ∧
    (s.settleKind k).control.outgoing = s.control.outgoing ++ [{ kind := k.byte, tag := 0, payload := s.snapshot k }])

/-! ## The form check, notices -/

/-- A command whose kind is no command kind, whose payload length is not the one its kind requires, or whose flags have a bit of 7..1 set is
answered BAD_FORMAT, and nothing else happens: on the row of each kind, and on UNKNOWN_COMMAND_KIND (R187). The length is the sum of the
widths of the kind's fields (R186), for MATRIX.LOAD that of its header, its map and its rows (R98). Between events, and on the rows of the
amplifier link and PROT.RESET with nothing waiting that an IDLE link could start, the state is unchanged but for the answered command. A
render command of wrong form with CONTINUE clear leaves an open group open, and its pending records as they are: that is the model's choice
(log 25, deduced), since R193 says that a refusal does not prevent the close. -/
def Obligations.BadFormChangesNothing : Prop :=
  (∀ c : Command, c.formRight = true ↔ (∀ j, 1 ≤ j → j ≤ 7 → c.flags.getLsbD j = false) ∧
    ((∃ widths, (c.kind, widths) ∈ fieldWidths ∧ c.payload.length = widths.sum) ∨
      (c.kind = 0x3A ∧ ∃ (zone option n rowCount : Byte) (map rows : List Byte), c.payload = zone :: option :: n :: (map ++ rowCount :: rows) ∧
        map.length = n.toNat ∧ rows.length = rowCount.toNat * (1 + 2 * n.toNat)))) ∧
  (∀ row ∈ hostRows, ∀ (s : State) (c : Command), s.control.commands.head? = some c → c.kind = row.2.1 → c.formRight = false →
    exec row.1 s = .next (if row.2.2 then (answered s c .badFormat []).settleLink else (answered s c .badFormat []).settle) ∧
    (Calm s → (row.2.2 = true → LinkRested s.link) → exec row.1 s = .next (answered s c .badFormat []))) ∧
  (∀ (s : State) (c : Command), s.control.commands.head? = some c → (∀ row ∈ hostRows, c.kind ≠ row.2.1) →
    exec .unknownCommandKind s = .next (answered s c .badFormat []))

/-- The end of an event (R188, R195). During initialisation it places and latches nothing. Else the kinds are taken in ascending order of their
numbers: a kind that is raised and enabled, of which no notice is in the queue, and for which room is left after the kinds before it, is placed
at the tail with the snapshot of that moment; its latch is cleared and what it carries is emptied. A kind raised and enabled without that has
its latch set; a masked or silent kind is left alone, its set kept. Nothing else changes, and after it nothing is raised (log 4). And what joins a
changed set and raises its notice: a change of a zone's state, reason, source, decoder or stack, or a sticky flag of it that becomes set (R24);
of a decoder's state or port (R60); of a slot's state, zone, role or destination (R117); of a port's state, rate or content (R12); of the tuner's
state, band, channel, region or follow switch, which has no set (R169); an entry to LOCKED from CONFIRM, and a map or level change at a span boundary
(R61); a slot flag that rises in a sample (R82); a channel's record or its effective reduction, compared before and after a whole report (R151,
log 51); an entry that becomes PRESENT or ABSENT or changes its channel count, and the end of an enumeration (R136); a new stable code, a name
completed (R182); an announcement start or end, counted up to 255 (R183). A record written without such a change joins nothing. -/
def Obligations.EventEndPlacesOrLatchesNotices : Prop :=
  (∀ (s : State) (k : NoticeKind),
    (s.raised[k.number] = false ∨ s.control.enabled[k.number] = false → s.settleKind k = s) ∧
    (s.raised[k.number] = true → s.control.enabled[k.number] = true →
      ((∀ x ∈ s.control.outgoing, x.kind ≠ k.byte) ∧
          s.control.outgoing.length + s.control.commands.length + s.control.longOps.length < 32 →
        hushed (s.settleKind k) = hushed s ∧
        (s.settleKind k).control.outgoing = s.control.outgoing ++ [{ kind := k.byte, tag := 0, payload := s.snapshot k }] ∧
        (s.settleKind k).control.latched = s.control.latched.set k.number false) ∧
      ((∃ x ∈ s.control.outgoing, x.kind = k.byte) ∨
          32 ≤ s.control.outgoing.length + s.control.commands.length + s.control.longOps.length →
        s.settleKind k = { s with control := { s.control with latched := s.control.latched.set k.number true } }))) ∧
  (∀ s : State, Noted s s.settle ∧ Calm s.settle) ∧
  (∀ s : State,
    (s.control.notReady = true → s.settle = { s with raised := State.reset.raised }) ∧
    (s.control.notReady = false →
      let due := fun (k : NoticeKind) => s.raised[k.number] = true ∧ s.control.enabled[k.number] = true
      ∃ (placed : List NoticeKind) (latched : Vector Bool 13),
        placed.Pairwise (fun j k => j.number < k.number) ∧
        (∀ k, k ∈ placed ↔ due k ∧ (∀ x ∈ s.control.outgoing, x.kind ≠ k.byte) ∧
          s.control.outgoing.length + (placed.filter fun j => j.number < k.number).length +
            s.control.commands.length + s.control.longOps.length < 32) ∧
        (∀ k, (k ∈ placed → latched[k.number] = false) ∧ (due k → k ∉ placed → latched[k.number] = true) ∧
          (¬ due k → latched[k.number] = s.control.latched[k.number])) ∧
        s.settle = { emptied s placed with
          raised := State.reset.raised
          control := { (emptied s placed).control with
            outgoing := s.control.outgoing ++ placed.map fun k => { kind := k.byte, tag := 0, payload := s.snapshot k },
            latched := latched } })) ∧
  (∀ (s : State) (z : ZoneId) (f : Zone → Zone), let x := s.zone z; let y := f x; let t := s.updZone z f
    let changed := x.state ≠ y.state ∨ x.reason ≠ y.reason ∨ x.source ≠ y.source ∨ x.decoder ≠ y.decoder ∨ x.stack ≠ y.stack ∨
      (x.delayClamped = false ∧ y.delayClamped = true) ∨ (x.annMissed = false ∧ y.annMissed = true)
    let written := { s with zones := s.zones.set z y }
    (changed → Joined z.val s.changedZones t.changedZones ∧
      t = { written with changedZones := t.changedZones, raised := s.raised.set NoticeKind.zone.number true }) ∧
    (¬ changed → t = written)) ∧
  (∀ (s : State) (d : DecoderId) (f : Decoder → Decoder), let x := s.decoder d; let y := f x; let t := s.updDecoder d f
    let written := { s with decoders := s.decoders.set d y }
    (x.state ≠ y.state ∨ x.port ≠ y.port → Joined d.val s.changedDecoders t.changedDecoders ∧
      t = { written with changedDecoders := t.changedDecoders, raised := s.raised.set NoticeKind.decoder.number true }) ∧
    (x.state = y.state → x.port = y.port → t = written)) ∧
  (∀ (s : State) (i : SlotId) (f : Slot → Slot), let x := s.slot i; let y := f x; let t := s.updSlot i f
    let written := { s with slots := s.slots.set i y }
    (x.state ≠ y.state ∨ x.assigned ≠ y.assigned → Joined i.val s.changedSlots t.changedSlots ∧
      t = { written with changedSlots := t.changedSlots, raised := s.raised.set NoticeKind.slot.number true }) ∧
    (x.state = y.state → x.assigned = y.assigned → t = written)) ∧
  (∀ (s : State) (p : PortId) (f : Port → Port), let x := s.port p; let y := f x; let t := s.updPort p f
    let written := { s with ports := s.ports.set p y }
    (x.state ≠ y.state ∨ x.rate ≠ y.rate ∨ x.content ≠ y.content → Joined p.val s.changedPorts t.changedPorts ∧
      t.raised[NoticeKind.source.number] = true ∧ offAir t = offAir written ∧ t.control = s.control) ∧
    (x.state = y.state → x.rate = y.rate → x.content = y.content → t = written)) ∧
  (∀ (s : State) (f : Tuner → Tuner), let x := s.tuner; let y := f x
    let changed := x.state ≠ y.state ∨ x.band ≠ y.band ∨ x.channel ≠ y.channel ∨ x.region ≠ y.region ∨ x.follow ≠ y.follow
    (changed → s.updTuner f = { s with tuner := y, raised := s.raised.set NoticeKind.tuner.number true }) ∧
    (¬ changed → s.updTuner f = { s with tuner := y })) ∧
  (∀ (s : State) (d : DecoderId),
    (let t := s.decoderChanged d .confirm
     (s.decoder d).state = .locked → Joined d.val s.changedFormats t.changedFormats ∧ t.raised[NoticeKind.format.number] = true) ∧
    (let t := s.spanBoundary d
     let x := s.decoder d
     let y := x.nextSpan
     let levels := fun (m : Option Metadata) => m.map fun m => (m.level, m.centreFold, m.surroundFold)
     let changed := x.header.map (·.map) ≠ y.header.map (·.map) ∨ levels x.metadata ≠ levels y.metadata
     (changed → Joined d.val s.changedFormats t.changedFormats ∧ t.raised[NoticeKind.format.number] = true) ∧
     (¬ changed → t.changedFormats = s.changedFormats))) ∧
  (∀ (s : State) (z : ZoneId) (accOf : Role → Int) (gain : Int) (i : SlotId) (a : Assignment), (s.slot i).assigned = some a →
    let x := s.slot i
    let y := x.sample (s.zone z).active (accOf a.role) gain
    let t := State.slotSample z accOf gain s i
    let rises := (x.overflow = false ∧ y.overflow = true) ∨ (x.limited = false ∧ y.limited = true)
    let written := { s with slots := s.slots.set i y }
    (rises → Joined i.val s.changedClips t.changedClips ∧
      t = { written with changedClips := t.changedClips, raised := s.raised.set NoticeKind.clip.number true }) ∧
    (¬ rises → t = written)) ∧
  (∀ (s : State) (k : EntryId) (id : Identity) (old new : ProtModule) (force : Bool), let t := s.protCommit k id old new force
    let inForce := fun (m : ProtModule) (r : ProtRecord) => min 36 (r.reduction + if m.supplyLow then 12 else 0)
    let changed := fun (ch : Nat) => 1 ≤ ch ∧ ch ≤ 8 ∧ ∃ a, old.records[ch - 1]? = some a ∧ ∀ b, new.records[ch - 1]? = some b →
      a.state ≠ b.state ∨ a.cause ≠ b.cause ∨ a.reduction ≠ b.reduction ∨ a.muted ≠ b.muted ∨ inForce old a ≠ inForce new b
    let before := fun (q r : Identity × Nat) => q.1.toNat < r.1.toNat ∨ (q.1 = r.1 ∧ q.2 < r.2)
    (∀ q, q ∈ t.changedProt ↔ q ∈ s.changedProt ∨ ∃ ch, changed ch ∧ q = (id, ch)) ∧
    (s.changedProt.Pairwise before → t.changedProt.Pairwise before) ∧
    ((∃ ch, changed ch) → t.raised[NoticeKind.protect.number] = true) ∧
    ((∀ ch, ¬ changed ch) → t.raised[NoticeKind.protect.number] = s.raised[NoticeKind.protect.number])) ∧
  (∀ (s : State) (k : EntryId) (e : Entry) (n : Nat),
    let joins := fun (t : State) => Joined k.val s.link.changed t.link.changed ∧ t.raised[NoticeKind.link.number] = true
    (∀ w : Winner, w.entry = k → joins (s.modulePresent w n)) ∧ joins (s.moduleAbsent k e) ∧
    (n ≠ e.faults.length → joins (s.descReply k e n)) ∧ (n = e.faults.length → s.descReply k e n = s)) ∧
  (∀ (s : State) (cause : EnumEnd) (admitted : Bool), s.link.enumRun ≠ none →
    (s.endEnum cause admitted).raised = s.raised.set NoticeKind.link.number true) ∧
  (∀ (s : State) (code : BitVec 16) (i : Fin 4) (c : Byte × Byte),
    (s.newIdentity code).raised[NoticeKind.station.number] = true ∧
    (let t := s.nameGroup i c
     s.stationData.name[i] ≠ some c → t.raised[NoticeKind.station.number] =
       (s.raised[NoticeKind.station.number] || t.stationData.name.all (·.isSome)))) ∧
  (∀ (s : State) (cause : EndCause),
    (let t := s.startAnnouncement
     t.raised[NoticeKind.announce.number] = true ∧ t.stationData.starts = min 255 (s.stationData.starts + 1) ∧
       t.stationData.ends = s.stationData.ends) ∧
    (let t := s.endAnnouncement cause
     (s.stationData.active ≠ none → t.raised[NoticeKind.announce.number] = true ∧
       t.stationData.ends = min 255 (s.stationData.ends + 1) ∧ t.stationData.starts = s.stationData.starts) ∧
     (s.stationData.active = none → t = s)))

/-- NOTE.MASK writes the mask bit of each kind 1..12, bit k − 1 of the mask for kind k; START stays enabled; the latch of each kind now
masked is cleared; a notice already in the queue stays, a kind now enabled places nothing at once, and the CONTINUE flag is ignored: the
group is left as it is (R190). -/
def Obligations.NoteMaskWritesMask : Prop :=
  ∀ (s : State) (c : Command) (hi lo : Byte), Calm s → Heads s c → c.kind = 0x02 → c.payload = [hi, lo] →
    ∃ enabled latched : Vector Bool 13,
      exec .noteMask s = .next { s with control := { (answered s c .ok []).control with enabled := enabled, latched := latched } } ∧
      (∀ k : NoticeKind, enabled[k.number] = (k == .start || (hi ++ lo).getLsbD (k.number.val - 1))) ∧
      (∀ k : NoticeKind, latched[k.number] = (enabled[k.number] && s.control.latched[k.number]))

/-! ## Queries and refused indices -/

/-- A query answers OK with the data of its block as they stand when it is taken, and changes nothing else: no record, no changed set, no latch
(R17, R39, R59, R116, R137, R150, R168, R181). SLOT.QUERY with CLEAR reports the flags and the counter as they stood, then clears OVERFLOW, LIMIT
and the clip counter of that slot; no notice is raised (R116, R81). Written out byte by byte in the codings of R186: the data of every one of
these queries, and the snapshots of every notice but START: SOURCE (R12), ZONE (R24), DECODER (R60), FORMAT (R61), CLIP (R82), SLOT (R117),
PROTECT (R151), LINK (R136), TUNER (R169), STATION (R182), ANNOUNCE (R183), GROUP (R194). The model's choices: the bytes where R186 leaves a
coding open, and the low-signal time modulo 2^32 (log 6), when the link counts as BUSY (log 11), the time since the last poll of a module: at most
100 ms while PRESENT, from its entry to PRESENT when not yet polled, going on while ABSENT (log 40), custom inactive judged on the record as it
stands (R101, log 52), ABSENT reported before a channel beyond the count where both hold (log 64). -/
def Obligations.QueriesReport : Prop :=
  (∀ (s : State) (c : Command), Calm s → Heads s c →
    (∀ e : SourceId, c.kind = 0x12 → c.payload = [byteOf e] → exec .srcQuery s = .next (answered s c .ok (s.sourceData e))) ∧
    (∀ z : ZoneId, c.kind = 0x2B → c.payload = [byteOf z] → exec .zoneQuery s = .next (answered s c .ok (s.zoneData z))) ∧
    (∀ d : DecoderId, c.kind = 0x30 → c.payload = [byteOf d] → exec .decQuery s = .next (answered s c .ok (s.decoderData d))) ∧
    (∀ i : SlotId, c.kind = 0x45 → c.payload = [byteOf i, 0] → exec .slotQuery s = .next (answered s c .ok (s.slotData i))) ∧
    (c.kind = 0x53 → exec .linkQuery s = .next (answered s c .ok s.linkData)) ∧
    (∀ (k : EntryId) (m : ProtModule), c.kind = 0x59 → s.entryOf (idField c.payload 0) = some k →
      s.protModule k = some m → exec .protQuery s = .next (answered s c .ok (s.protData (idField c.payload 0) m))) ∧
    (c.kind = 0x67 → exec .tunQuery s = .next (answered s c .ok s.tunerData)) ∧
    (∀ i : Fin 16, c.kind = 0x74 → c.payload = [byteOf i] → exec .stmemQuery s = .next (answered s c .ok (s.stationMemoryData i)))) ∧
  (∀ (s : State) (c : Command) (i : SlotId), Calm s → Heads s c → c.kind = 0x45 → c.payload = [byteOf i, 1] →
    exec .slotQuery s = .next { answered s c .ok (s.slotData i) with
      slots := s.slots.set i { s.slot i with overflow := false, limited := false, clips := 0 } }) ∧
  (∀ (s : State),
    let flag := fun (b : Bool) => (if b then 1 else 0 : Byte)
    let rateOf := fun (r : Option RateCode) => match r with
      | none => [(0 : Byte)]
      | some r => [1, byteOf r]
    let port := fun (p : PortId) => [BitVec.ofNat 8 (s.port p).state.ctorIdx] ++ rateOf (s.port p).rate ++
      [BitVec.ofNat 8 (s.port p).content.ctorIdx] ++ (if 3 ≤ p.val ∧ p.val ≤ 5 then [flag (s.port p).nonAudio] else [])
    let zones := fun (l : List ZoneId) => BitVec.ofNat 8 l.length :: l.map byteOf
    let listed := fun (l : List Nat) => BitVec.ofNat 8 l.length :: l.map (BitVec.ofNat 8 ·)
    let word := fun (n : Nat) => [BitVec.ofNat 8 (n / 256), BitVec.ofNat 8 n]
    let zoneOf := fun (o : Option Assignment) => o.elim 255 fun a => byteOf a.zone
    (∀ e : SourceId, let x := s.source e
      s.sourceData e = [flag x.enabled, byteOf x.port, BitVec.ofNat 8 x.width, BitVec.ofNat 8 x.map.length, BitVec.ofNat 8 x.map.length] ++
        x.map.map byteOf ++ bytes2 x.trim ++ bytes2 x.offset ++
        zones (allZones.filter fun z => (s.zone z).state != .standby && (s.zone z).source == some e) ++
        zones (allZones.filter fun z => (s.zone z).stack.any (fun y => y.source == some e)) ++
        zones (allZones.filter fun z => (s.zone z).policy == .follow && (s.zone z).annSource == some e) ++ port x.port) ∧
    (∀ i : SlotId, let x := s.slot i
      let steps := min 72 (x.limit + x.reduction)
      s.slotData i = [BitVec.ofNat 8 x.state.ctorIdx] ++
        (match x.assigned with
          | none => [0, 0]
          | some a => [1, byteOf a.zone, byteOf a.role] ++
            (match a.dest with
              | .amp id ch => 0 :: enc6 id ++ [BitVec.ofNat 8 ch]
              | .line l => [1, byteOf l]) ++
            (match s.missing a.dest with
              | none => [0]
              | some .notInTable => [1, 0]
              | some .absent => [1, 1]
              | some .beyondCount => [1, 2])) ++
        word x.distance ++ bytes4 (BitVec.ofNat 32 x.delay) ++ bytes2 x.trim ++ word x.limit ++ word x.reduction ++ word steps ++
        bytes4 (BitVec.ofNat 32 (limitOf steps)) ++ [BitVec.ofNat 8 x.g, BitVec.ofNat 8 x.target, flag x.overflow, flag x.limited] ++
        word x.clips ++ encOpt word x.staged.distance ++ encOpt bytes2 x.staged.trim ++ encOpt word x.staged.limit) ∧
    s.snapshot .source = listed s.changedPorts ++ allPorts.flatMap port ∧
    s.snapshot .clip = listed s.changedClips ++ allSlots.flatMap (fun i =>
      [zoneOf (s.slot i).assigned, flag (s.slot i).overflow, flag (s.slot i).limited] ++ word (s.slot i).clips) ∧
    s.snapshot .group = BitVec.ofNat 8 s.control.groupsExpired :: word s.control.commandsDiscarded ++ listed s.control.zonesDiscarded ∧
    (let x := s.stationData
     s.snapshot .announce = [flag x.active.isSome] ++ encOpt (fun (c : BitVec 16) => [c.extractLsb' 8 8, c.extractLsb' 0 8]) x.stable ++
        word s.tuner.channel ++ encOpt (fun t => bytes4 (BitVec.ofNat 32 (min 180000 (s.now - t)))) x.active ++
        [BitVec.ofNat 8 x.endCause.ctorIdx, BitVec.ofNat 8 x.starts, BitVec.ofNat 8 x.ends])) ∧
  (∀ (s : State),
    let flag := fun (b : Bool) => (if b then 1 else 0 : Byte)
    let on := fun (b : Bool) => (if b then 0 else 1 : Byte)
    let byte := fun (n : Nat) => BitVec.ofNat 8 n
    let word := fun (n : Nat) => [byte (n / 256), byte n]
    let quad := fun (n : Nat) => bytes4 (BitVec.ofNat 32 n)
    let code := fun (c : BitVec 16) => [c.extractLsb' 8 8, c.extractLsb' 0 8]
    let index := fun (n : Option Nat) => byte (n.getD 255)
    let opt := fun (o : Option (List Byte)) => match o with
      | none => [(0 : Byte)]
      | some l => 1 :: l
    let list := fun (l : List (List Byte)) => byte l.length :: l.flatten
    let roles := fun (m : List Role) => list (m.map fun r => [byteOf r])
    let source := fun (e : Option SourceId) => index (e.map (·.val))
    let quality := fun (q : Quality) => [byte q.strength, byte q.multipath, flag q.stereo]
    let band := fun (b : Band) => (if b = .fm then 0 else 1 : Byte)
    let users := fun (d : DecoderId) => list ((allZones.filter fun z => (s.zone z).decoder == some d).map fun z => [byteOf z])
    let effective := fun (m : ProtModule) (r : ProtRecord) => min 36 (r.reduction + if m.supplyLow then 12 else 0)
    let entry := fun (e : Entry) => enc6 e.identity ++ [byte e.address, byte e.faults.length, byte e.presence.ctorIdx, byte e.misses]
    let name := fun (x : StationData) => x.name.toList.flatMap fun q => opt (q.map fun c => [c.1, c.2])
    let txns := fun (l : List Txn) => list (l.map fun x => enc6 x.identity ++ [byte x.kind.ctorIdx])
    (∀ z : ZoneId, let x := s.zone z
      let y := x.staged
      let inactive := x.matrixMode = .custom ∧ ¬ ((∃ m, x.matrix = some m ∧ m.custom = true) ∧ ∃ st, x.store = some st ∧ x.map = some st.map)
      let xover := fun (c : XoverSet) => [c.b0, c.b1, c.b2, c.a1, c.a2].flatMap fun v => bytes4 (BitVec.ofInt 32 v)
      ∀ shown : Bool, (shown = true ↔ inactive) → s.zoneData z =
        byte x.state.ctorIdx :: opt (x.reason.map fun r => [byte r.ctorIdx]) ++ source x.source ::
        opt (x.rate.map fun r => byteOf r :: roles (x.map.getD [])) ++ opt (x.hold.map fun t => quad (500 - min 500 (s.now - t))) ++
        bytes2 x.volume ++ bytes2 x.maxVolume ++ on x.mute :: word x.lipsync ++ quad x.delay ++ quad x.allocation ++
        [byte x.policy.ctorIdx, source x.annSource] ++ bytes2 x.annVolume ++
        [on x.dynamicGain, on x.upmix, byte x.matrixMode.ctorIdx, flag shown, index (x.decoder.map (·.val))] ++
        opt (if z ∈ s.waitList then some [byte (s.waitList.idxOf z + 1)] else none) ++ [flag x.delayClamped, flag x.annMissed] ++
        list (x.stack.map fun e => source e.source :: bytes2 e.volume ++ [on e.mute, byte e.cause.ctorIdx]) ++
        opt (y.volume.map bytes2) ++ opt (y.mute.map fun b => [on b]) ++ opt (y.lipsync.map word) ++
        opt (y.dynamicGain.map fun b => [on b]) ++ opt (y.upmix.map fun b => [on b]) ++
        opt (y.layout.map fun (l : Vector Size 12) => l.toList.map sizeByte) ++ opt (y.high.map xover) ++ opt (y.low.map xover) ++
        list (y.loads.map fun w => (if w.replaces then 0 else 1) :: roles w.map ++ list (w.rows.map rowBytes)) ++
        opt (y.mode.map fun m => [byte m.ctorIdx])) ∧
    (∀ d : DecoderId, let x := s.decoder d
      let current := match x.header, x.metadata with
        | some h, some m => some (byteOf h.rate :: byte h.map.length :: roles h.map ++ bytes2 m.level ++ bytes2 m.centreFold ++
            bytes2 m.surroundFold ++ list (m.points.map fun q => byte q.position :: bytes2 q.gain) ++ bytes2 m.endGain)
        | _, _ => none
      s.decoderData d = [byte x.state.ctorIdx, index (x.port.map (·.val))] ++ users d ++
        [byte x.bad, byte x.lastCause.ctorIdx, flag x.ready.isSome] ++ opt current ++ opt (x.chain.map fun k => [byte k.sequence]) ++
        word x.counters.good ++ word x.counters.rejected ++ word x.counters.syncLosses ++ word x.counters.ignored ++
        word x.counters.jumps ++ word x.counters.slips) ∧
    (∀ (id : Identity) (m : ProtModule),
      let channel := fun (q : ProtRecord × Nat) => let r := q.1
        [byte r.state.ctorIdx, byte r.cause.ctorIdx] ++ word r.reduction ++ word (effective m r) ++ [flag r.muted, byte r.count] ++
        opt (if r.count = 0 then none else some (quad (s.now - r.windowStart))) ++
        opt (r.holdOff.map fun t => quad (3000 - min 3000 (s.now - t))) ++
        [index ((allSlots.find? fun i => (s.slot i).assigned.any fun a => a.dest == .amp id (q.2 + 1)).map (·.val))]
      s.protData id m = flag m.supplyLow :: m.muteMask :: opt (m.temperature.map fun v => [BitVec.ofInt 8 v]) ++
        list (m.records.zipIdx.map channel)) ∧
    (∀ i : Fin 16, let x := s.stationData
      s.stationMemoryData i = on s.stationMemory.lockMode :: word s.stationMemory.notStored ++
        (s.stationMemory.sets[i]).toList.flatMap (fun o => opt (o.map fun e =>
          flag e.rank.isNone :: opt (e.rank.map fun r => [byte r]) ++ band e.band :: word e.channel ++ e.alignment :: quality e.quality ++
          opt (e.code.map code) ++ opt e.name)) ++
        opt (x.candidate.map fun q => code q.1 ++ [byte q.2]) ++ opt (x.stable.map code) ++ [flag x.capable, flag x.stereo] ++
        name x ++ flag (x.name.all (·.isSome)) :: list (x.alternates.map word) ++ flag x.active.isSome ::
        quad (x.active.elim 0 fun t => min 180000 (s.now - t)) ++
        [byte x.setRun, byte x.clearRun, flag x.rearm, byte x.endCause.ctorIdx] ++ word x.badGroups) ∧
    (let l := s.link
     s.linkData = [byte l.state.ctorIdx, if l.accept then 0 else 1] ++ opt (l.enumPending.map fun o => [byte o.ctorIdx]) ++
        opt (l.enumRun.map fun r => [byte r.origin.ctorIdx]) ++ [flag l.joinPending, flag l.stuck] ++
        opt (l.lastResult.map fun r => [byte r.assigned, byte r.failed, byte r.cause.ctorIdx]) ++
        word l.counters.completed ++ word l.counters.naks ++ word l.counters.stalls ++ word l.counters.discarded ++
        word l.counters.roundsFailed ++
        list ((allEntries.filterMap s.entry).map fun e => entry e ++
          quad (if e.presence = .present then min 100 (s.now - e.polled) else s.now - e.polled) ++ flag e.supplyLow ::
          opt (e.temperature.map fun v => [BitVec.ofInt 8 v]) ++
          list (e.faults.map fun b => [flag b.tempWarn, flag b.tempShut, flag b.overcurrent, flag b.dcFault])) ++
        txns l.urgent ++ txns l.ordinary ++ txns l.marks) ∧
    (let x := s.tuner
     let returning := match x.job with
       | .back _ _ => true
       | _ => false
     let checking := match x.job with
       | .check original i => some (word original ++ [byte i])
       | _ => none
     let kHz := match x.band, x.region with
       | .fm, _ => 87500 + 50 * x.channel
       | .am, .khz9 => 531 + 9 * x.channel
       | .am, .khz10 => 520 + 10 * x.channel
     s.tunerData = [byte x.state.ctorIdx, band x.band] ++ word x.channel ++ quad kHz ++
        [if x.region = .khz9 then 0 else 1, x.alignment] ++ quality x.quality ++
        word x.strengthThreshold ++ word x.multipathThreshold ++ word x.followThreshold ++ on x.follow :: opt (x.op.map fun o => byte o.kind.ctorIdx :: word o.start ++
          opt (if o.kind = .seek then some (word o.loop) else none) ++ opt (if o.kind = .scan then some [byte o.found] else none)) ++
        flag returning :: opt (x.lowSince.map fun t => quad (s.now - t)) ++ opt checking ++ [byte s.stations.length] ∧
     s.snapshot .tuner = [byte x.state.ctorIdx, band x.band] ++ word x.channel ++ [if x.region = .khz9 then 0 else 1, on x.follow] ++
        quality x.quality ++ opt (x.op.map fun o => [byte o.kind.ctorIdx]) ++ [flag returning, byte s.stations.length]) ∧
    s.snapshot .zone = list (s.changedZones.map fun n => [byte n]) ++
      allZones.flatMap (fun z => let x := s.zone z
        byte x.state.ctorIdx :: opt (x.reason.map fun r => [byte r.ctorIdx]) ++ source x.source ::
        opt (x.rate.map fun r => [byteOf r, byte (x.map.elim 0 (·.length))]) ++ index (x.decoder.map (·.val)) :: bytes2 x.volume ++
        [on x.mute, byte x.stack.length, flag x.delayClamped, flag x.annMissed]) ++ list (s.waitList.map fun z => [byteOf z]) ∧
    s.snapshot .decoder = list (s.changedDecoders.map fun n => [byte n]) ++
      allDecoders.flatMap (fun d => let x := s.decoder d
        [byte x.state.ctorIdx, index (x.port.map (·.val))] ++ users d ++ [byte x.bad, byte x.lastCause.ctorIdx] ++
        word x.counters.rejected ++ word x.counters.syncLosses) ∧
    s.snapshot .format = list (s.changedFormats.map fun n => [byte n]) ++
      allDecoders.flatMap (fun d => match (s.decoder d).header, (s.decoder d).metadata with
        | some h, some m =>
          1 :: byteOf h.rate :: byte h.map.length :: roles h.map ++ bytes2 m.level ++ bytes2 m.centreFold ++ bytes2 m.surroundFold
        | _, _ => [0, byte (s.decoder d).state.ctorIdx]) ∧
    (let lane := fun (l : Lane) => [index ((s.laneOwner l).map (·.val)), byteOf (s.laneRate l)]
     s.snapshot .slot = list (s.changedSlots.map fun n => [byte n]) ++
      allSlots.flatMap (fun i => let x := s.slot i
        byte x.state.ctorIdx :: opt (x.assigned.map fun a => [byteOf a.zone, byteOf a.role] ++ match a.dest with
          | .amp id ch => 0 :: enc6 id ++ [byte ch]
          | .line l => [1, byteOf l]) ++ bytes2 x.reduction ++ bytes2 x.limit) ++
      list ((allEntries.filterMap s.entry).map fun e => lane (.amp e.identity)) ++ lane (.line 0) ++ lane (.line 1) ++ lane (.line 2)) ∧
    (let record := fun (q : Identity × Nat) => (s.entryOf q.1).bind fun k => (s.protModule k).bind fun m =>
       if q.2 = 0 then none else (m.records[q.2 - 1]?).map fun r => (m, r)
     s.snapshot .protect = list (s.changedProt.map fun q => enc6 q.1 ++ [byte q.2]) ++
      s.changedProt.flatMap (fun q => opt ((record q).map fun (m, r) =>
        [byte r.state.ctorIdx, byte r.cause.ctorIdx] ++ bytes2 r.reduction ++ bytes2 (effective m r) ++ [flag r.muted, byte r.count])) ++
      list (allEntries.filterMap fun k => match s.entry k, s.protModule k with
        | some e, some m => some (enc6 e.identity ++ [flag m.supplyLow])
        | _, _ => none) ++ [flag s.allRemoved]) ∧
    (let l := s.link
     s.snapshot .link = list (l.changed.map fun n => [byte n]) ++ [byte l.state.ctorIdx, if l.accept then 0 else 1, flag l.stuck] ++
      opt (l.enumRun.map fun r => [byte r.origin.ctorIdx]) ++
      opt (l.lastResult.map fun r => [byte r.assigned, byte r.failed, byte r.cause.ctorIdx]) ++
      allEntries.flatMap (fun k => opt ((s.entry k).map entry))) ∧
    (let x := s.stationData
     s.snapshot .station = band s.tuner.band :: word s.tuner.channel ++ opt (x.stable.map code) ++ [flag x.capable, flag x.stereo] ++
      name x ++ flag (x.name.all (·.isSome)) :: list (x.alternates.map word) ++ word x.badGroups))

/-- A zone above 2 is refused with BAD_VALUE and the command changes nothing: on every zone command, and, with no group open, on every render
command of a zone (R29 to R36, R39, R40; R83, R84 of chapter 04; R86, R94, R96, R98, R100 of chapter 05). ZONE.SOURCE tests the zone before the
entry its source names (log 61). -/
def Obligations.ZoneAboveTwoRefused : Prop :=
  ∀ (s : State) (c : Command) (z : Byte) (rest : List Byte), Calm s → Heads s c → c.payload = z :: rest → 2 < z.toNat →
    (∀ row ∈ zoneRows, c.kind = row.2 → exec row.1 s = .next (answered s c .badValue [])) ∧
    (s.control.group = none → ∀ row ∈ zoneRenderRows, c.kind = row.2 → exec row.1 s = .next (answered s c .badValue []))

/-! ## Sources (01) -/

/-- SRC.DEFINE and SRC.ENABLE leave an entry in use alone: a definition with another port, width or map, or a switching off, is answered
NOT_NOW and changes nothing (R14, R16). Trim and offset alone of an entry in use are written, and a changed offset is reported to each zone whose
selected source the entry is: a RUNNING zone recomputes its delay at the next block boundary, a HELD one at once (R15, R67). An entry not in use is
written whole: width 24 on P3 to P10, map FL, FR on all ports but P0, trim clamped to −12..+12, offset to 0..100 ms, enabled field kept. When it
is enabled, P0 asks for the channel count and map of the other enabled entries on P0, else NOT_NOW; and with another port the old one goes to OFF
unless another enabled entry names it, and the new one is named (R2, R14, R15). The reply is OK or CLAMPED and carries trim and offset as applied;
beside what the zones play nothing else changes. A field out of range is refused with BAD_VALUE (R14). That the reply stands before the notices
is the model's choice (log 4). -/
def Obligations.SrcDefineAndEntriesInUse : Prop :=
  (∀ (s : State) (c : Command) (e : SourceId), Calm s → Heads s c → s.inUse e = true →
    (∀ (p : PortId) (w : Nat) (m : List Role) (rest : List Byte), c.kind = 0x10 → c.payload = byteOf e :: rest →
      sourceDefinition c.payload = some (p, w, m) →
      ((s.source e).port ≠ p ∨ (s.source e).width ≠ w ∨ (s.source e).map ≠ m) →
      exec .srcDefine s = .next (answered s c .notNow [])) ∧
    (c.kind = 0x11 → c.payload = [byteOf e, 1] → exec .srcEnable s = .next (answered s c .notNow []))) ∧
  (∀ (s : State) (c : Command) (b q w n : Byte) (map : List Byte) (th tl oh ol : Byte),
    Calm s → Heads s c → c.kind = 0x10 → map.length = 8 → c.payload = b :: q :: w :: n :: (map ++ [th, tl, oh, ol]) →
    let wide := w = 16 ∨ w = 20 ∨ w = 24
    let mapped := fun (m : List Role) => (n = 2 ∨ n = 4 ∨ n = 6 ∨ n = 8) ∧ m.Nodup ∧ map.take n.toNat = m.map byteOf
    (15 < b.toNat ∨ 10 < q.toNat ∨ (q.toNat ≤ 2 ∧ ¬ wide) ∨ (q = 0 ∧ ∀ m, ¬ mapped m) →
      exec .srcDefine s = .next (answered s c .badValue [])) ∧
    (∀ (e : SourceId) (p : PortId) (m : List Role), b = byteOf e → q = byteOf p → (p.val ≤ 2 → wide) →
      (p = 0 → mapped m) → (p ≠ 0 → m = [0, 1]) →
      let old := s.source e
      let trim := max (-12) (min 12 (word2 th tl))
      let offset := max 0 (min 100 (word2 oh ol))
      let reply := answered s c (if trim = word2 th tl ∧ offset = word2 oh ol then .ok else .clamped) (encInt2 trim ++ encInt2 offset)
      let written := { reply with sources := s.sources.set e { old with
        port := p, width := if p.val ≤ 2 then w.toNat else 24, map := m, trim := trim, offset := offset.toNat } }
      let agrees := old.enabled = true → p = 0 → ∀ x : SourceId, x ≠ e → (s.source x).enabled = true → (s.source x).port = 0 →
        (s.source x).map = m
      (s.inUse e = false →
        (¬ agrees → exec .srcDefine s = .next (answered s c .notNow [])) ∧
        (agrees → old.enabled = false ∨ old.port = p → exec .srcDefine s = .next written) ∧
        (agrees → old.enabled = true → old.port ≠ p →
          let left := if ∃ x : SourceId, x ≠ e ∧ (s.source x).enabled = true ∧ (s.source x).port = old.port then s.ports
            else s.ports.set old.port Port.reset
          ∃ t, exec .srcDefine s = .next t ∧ Replayed { written with
            ports := if s.named p then left else left.set p (portNamed p s.tuner.state) } t)) ∧
      (s.inUse e = true → agrees → old.port = p → old.width = (if p.val ≤ 2 then w.toNat else 24) → old.map = m →
        (old.offset = offset.toNat → exec .srcDefine s = .next written) ∧
        (old.offset ≠ offset.toNat → ∃ t, exec .srcDefine s = .next t ∧ Replayed written t ∧
          ∀ z : ZoneId, let x := s.zone z
            (x.source ≠ some e ∨ (x.state ≠ .running ∧ x.state ≠ .held) → t.zone z = x) ∧
            (x.source = some e → x.state = .running → t.zone z = { x with lipsyncDue := true }) ∧
            (x.source = some e → x.state = .held → (∀ y : ZoneId, y ≠ z → (s.zone y).source ≠ some e) →
              t.zone z = (written.recompute z false).zone z)))))

/-- SRC.ENABLE on a disabled entry names its port: a watched port that was not named goes to NO_SIGNAL with its mark clear and its watcher
reset, a converter port to LOCKED at 48000 Hz with content PCM, P10 to the state the tuner's gives it; a port already named stays as it is.
The entry is enabled, the reply is OK, and beside what the zones play nothing else changes. Disabling an entry leaves its port named while
another enabled entry names it, and takes it to OFF else. A source id above 15 and an action above 1 are refused with BAD_VALUE, the
disabling of an entry in use with NOT_NOW. An entry on P0 whose map is not that of the other enabled entries on P0 is refused with NOT_NOW;
an entry already in the requested condition is answered OK and left as it is (R2, R5, R6, R16). That the reply stands before the notices is
the model's choice (log 4). -/
def Obligations.SrcEnableNamesPort : Prop :=
  (∀ (s : State) (c : Command) (b action : Byte), Calm s → Heads s c → c.kind = 0x11 → c.payload = [b, action] →
    15 < b.toNat ∨ 1 < action.toNat → exec .srcEnable s = .next (answered s c .badValue [])) ∧
  ∀ (s : State) (c : Command) (e : SourceId), Heads s c → c.kind = 0x11 →
    let p := (s.source e).port
    let agrees := p = 0 → ∀ x : SourceId, x ≠ e → (s.source x).enabled = true → (s.source x).port = 0 → (s.source x).map = (s.source e).map
    (Calm s →
      (c.payload = [byteOf e, 1] → s.inUse e = true → exec .srcEnable s = .next (answered s c .notNow [])) ∧
      (c.payload = [byteOf e, 0] → (s.source e).enabled = true → exec .srcEnable s = .next (answered s c .ok [])) ∧
      (c.payload = [byteOf e, 0] → (s.source e).enabled = false → ¬ agrees → exec .srcEnable s = .next (answered s c .notNow [])) ∧
      (c.payload = [byteOf e, 1] → (s.source e).enabled = false → s.inUse e = false → exec .srcEnable s = .next (answered s c .ok [])) ∧
      (c.payload = [byteOf e, 1] → (s.source e).enabled = true → s.inUse e = false →
        (∃ x : SourceId, x ≠ e ∧ (s.source x).enabled = true ∧ (s.source x).port = p) →
        exec .srcEnable s = .next { answered s c .ok [] with sources := s.sources.set e { s.source e with enabled := false } })) ∧
    (c.payload = [byteOf e, 0] → (s.source e).enabled = false → agrees →
      ∃ t, exec .srcEnable s = .next t ∧
        Replayed { answered s c .ok [] with
          sources := s.sources.set e { s.source e with enabled := true },
          ports := if s.named p then s.ports else s.ports.set p (portNamed p s.tuner.state) } t) ∧
    (c.payload = [byteOf e, 1] → (s.source e).enabled = true → s.inUse e = false →
      (∀ x : SourceId, x ≠ e → (s.source x).enabled = true → (s.source x).port ≠ p) →
      ∃ t, exec .srcEnable s = .next t ∧
        Replayed { answered s c .ok [] with
          sources := s.sources.set e { s.source e with enabled := false },
          ports := s.ports.set p Port.reset } t ∧ (t.port p).state = .off)

/-! ## Ports (01) -/

/-- Lock and loss of a serial or biphase port (R3, R4): a clock seen takes NO_SIGNAL to LOCKING; in LOCKING a measured rate (in mHz, log 44)
within 0.2 % of a listed rate starts or restarts the stability timer for that rate, and one near none of the seven stops it; the timer's 20
ms take the port to LOCKED with that rate, content UNDETERMINED and the watcher reset; a lost clock takes it to NO_SIGNAL with everything
cleared; a measured rate outside 0.2 % of the locked rate takes a LOCKED port to LOCKING, its mark kept. Nothing else changes but what the
zones play. The model's choice: an expiry row moves the clock to the later of now and its start plus limit (log 1). -/
def Obligations.PortLockAndLoss : Prop :=
  (∀ (s : State) (p : PortId), p.val ≤ 5 →
    let silent : Port :=
      { state := .noSignal, rate := none, content := .undetermined, nonAudio := false, stability := none, phase := .seek, count := 0 }
    let near := fun (measured : Nat) (r : RateCode) => 998 * Config.rateHz r ≤ measured ∧ measured ≤ 1002 * Config.rateHz r
    ((s.port p).state = .noSignal → ∃ t, exec (.clockSeen p) s = .next t ∧
      Replayed { s with ports := s.ports.set p { s.port p with state := .locking } } t) ∧
    ((s.port p).state = .locking →
      (∀ measured : Nat, (∀ r, ¬ near measured r) → ∃ t, exec (.rateRecognitionChange p measured) s = .next t ∧
        Replayed { s with ports := s.ports.set p { s.port p with stability := none } } t) ∧
      (∀ (measured : Nat) (r : RateCode), near measured r →
        ((s.port p).stability = none ∨ ∃ q since, q ≠ r ∧ (s.port p).stability = some (q, since)) →
        ∃ t, exec (.rateRecognitionChange p measured) s = .next t ∧
          Replayed { s with ports := s.ports.set p { s.port p with stability := some (r, s.now) } } t) ∧
      (∀ (r : RateCode) (since : Nat), (s.port p).stability = some (r, since) →
        ∃ t, exec (.stabilityTimerExpiry p) s = .next t ∧
          Replayed { s with
            now := max s.now (since + 20),
            ports := s.ports.set p { s.port p with
              state := .locked, rate := some r, content := .undetermined, stability := none, phase := .seek, count := 0 } } t)) ∧
    ((s.port p).state = .locking ∨ (s.port p).state = .locked → ∃ t, exec (.clockLost p) s = .next t ∧
      Replayed { s with ports := s.ports.set p silent } t) ∧
    (∀ measured : Nat, (s.port p).state = .locked → (∀ held, (s.port p).rate = some held → ¬ near measured held) →
      let stability := fun (r : Option RateCode) => r.map fun r => (r, s.now)
      let goes := fun (r : Option RateCode) => ∃ t, exec (.rateChange p measured) s = .next t ∧
        Replayed { s with ports := s.ports.set p { silent with
          state := .locking, nonAudio := (s.port p).nonAudio, stability := stability r } } t
      (∀ r, near measured r → goes (some r)) ∧ ((∀ r, ¬ near measured r) → (s.port p).rate ≠ none → goes none)))

/-- What one word does to the watcher of a LOCKED port (R1, R8, R9), `v` being the 24-bit word taken from it. In SEEK a sync word is a sighting:
the count is 0 and the next word is read as a format word. A sync word at the expected position is a confirmed sighting: the content is
PACKED. Any other word adds one to the count, which stops at 4,096; on the word that takes it there the content becomes UNSUPPORTED for a
biphase port whose mark is set and PCM otherwise; WORD_COUNT_LIMIT is that word (log 13). In FOLLOW a format word with a channel count of 0
or above 12 returns the watcher to SEEK, another has it expect an end mark for the header, for metadata, for each channel and for the check
word; after the last of them the next word stands at the expected position. While the content is PACKED the decoder bound to the port takes
the word (R41); otherwise no decoder changes. A channel status block writes the mark; at a count of 4,096 a mark that becomes set turns PCM
into UNSUPPORTED and one that becomes clear turns it back (R10). Nothing else changes but what the zones and decoders play. -/
def Obligations.SyncWatcherAndMark : Prop :=
  (∀ (s : State) (p : PortId) (w : InputWord), p.val ≤ 5 → (s.port p).state = .locked →
    let v := takenWord w
    (v = 0x2B6E51 → (s.port p).phase = .seek → ∃ t, exec (.wordTaken p w) s = .next t ∧
      Replayed { s with ports := s.ports.set p { s.port p with count := 0, phase := .format } } t) ∧
    (v = 0x2B6E51 → (s.port p).phase = .due → ∃ t, exec (.wordTaken p w) s = .next t ∧
      Replayed { s with ports := s.ports.set p { s.port p with count := 0, phase := .format, content := .packed } } t) ∧
    ((v ≠ 0x2B6E51 ∨ ((s.port p).phase ≠ .seek ∧ (s.port p).phase ≠ .due)) → (s.port p).count ≤ 4096 →
      ∃ t : State, exec (.wordTaken p w) s = .next t ∧
        Replayed { s with ports := s.ports.set p { s.port p with
          phase := (s.port p).phase.next v, count := min 4096 ((s.port p).count + 1),
          content := if (s.port p).count = 4095
            then (if 3 ≤ p.val ∧ (s.port p).nonAudio = true then .unsupported else .pcm) else (s.port p).content } } t ∧
        ((s.port p).count = 4095 → exec (.wordCountLimit p w) s = .next t)) ∧
    (let after := { s with ports := s.ports.set p ((s.port p).watch p v) }
     (∀ d : DecoderId, s.decoderOn p = some d → (s.port p).content = .packed → (s.port p).count < 4095 →
       let taken := (s.decoder d).take v
       (taken.state = (s.decoder d).state ∨ ∀ z, (s.zone z).decoder ≠ some d) →
       ∃ t, exec (.wordTaken p w) s = .next t ∧ Noted { after with decoders := s.decoders.set d taken } t) ∧
     ((s.port p).content ≠ .packed → ((s.port p).watch p v).content = (s.port p).content →
       ∃ t, exec (.wordTaken p w) s = .next t ∧ Noted after t))) ∧
  (∀ (w : TWord),
    WatchPhase.next .seek w = .seek ∧ WatchPhase.next .due w = .seek ∧
    (let n := (w.extractLsb' 16 4).toNat
     WatchPhase.next .format w = if n = 0 ∨ 12 < n then .seek else .marks (n + 2 + if w.getLsbD 15 then 1 else 0)) ∧
    (∀ k : Nat, WatchPhase.next (.marks (k + 2)) w = .marks (if w.getLsbD 23 then k + 1 else k + 2)) ∧
    WatchPhase.next (.marks 1) w = (if w.getLsbD 23 then .due else .marks 1)) ∧
  (∀ (s : State) (p : PortId) (mark : Bool), 3 ≤ p.val → p.val ≤ 5 → (s.port p).state = .locked ∨ (s.port p).state = .locking →
    ((s.port p).count < 4096 → ∃ t, exec (.channelStatusBlock p mark) s = .next t ∧
      Replayed { s with ports := s.ports.set p { s.port p with nonAudio := mark } } t) ∧
    ((s.port p).count = 4096 → (s.port p).state = .locked →
      (s.port p).content = (if (s.port p).nonAudio then .unsupported else .pcm) →
      ∃ t, exec (.channelStatusBlock p mark) s = .next t ∧
        Replayed { s with ports := s.ports.set p { s.port p with
          nonAudio := mark, content := if mark then .unsupported else .pcm } } t)) ∧
  (∀ w : InputWord, w.value < 2 ^ w.length →
    (24 ≤ w.length → (takenWord w).toNat = w.value / 2 ^ (w.length - 24)) ∧
    (w.length ≤ 24 → (takenWord w).toNat = w.value * 2 ^ (24 - w.length)))

/-! ## Zones (02) -/

/-- ZONE.POWER off takes a powered zone to STANDBY: it leaves its program, its decoder field becomes none, its stack is emptied, it
leaves the wait list; its source and its settings stay. Power on of a powered zone and power off of one in STANDBY change nothing, and a
zone without a source powers on to IDLE. Beside this nothing changes but what the zones play (R18, R23, R29). That the reply stands before
the notices is the model's choice (log 4). -/
def Obligations.ZonePowerMovesZone : Prop :=
  ∀ (s : State) (c : Command) (z : ZoneId), Calm s → Heads s c → c.kind = 0x20 →
    let x := s.zone z
    (c.payload = [byteOf z, 1] → x.state ≠ .standby → ∃ t, exec .zonePower s = .next t ∧
      t.zone z = { x with
        state := .standby, reason := none, rate := none, map := none, decoder := none, stack := [], allocation := 0, hold := none,
        delay := 0, lines := [], matrix := none, stale := false, deriveDue := false, lipsyncDue := false,
        rampOut := x.rampOut || x.state == .running } ∧
      z ∉ t.waitList ∧ Replayed { answered s c .ok [] with zones := s.zones.set z { x with stack := [] } } t) ∧
    (c.payload = [byteOf z, 1] → x.state = .standby → exec .zonePower s = .next (answered s c .ok [])) ∧
    (c.payload = [byteOf z, 0] → x.state ≠ .standby → exec .zonePower s = .next (answered s c .ok [])) ∧
    (c.payload = [byteOf z, 0] → x.state = .standby → x.source = none → ∃ t, exec .zonePower s = .next t ∧
      Noted { answered s c .ok [] with zones := s.zones.set z { x with state := .idle } } t)

/-- The acquisition test, as powering on a zone with a source runs it (R19, R26): the first check that holds decides the reason, or the zone
enters RUNNING with the rate of the port and the map of its entry (PCM), or with those of the decoder's header (PACKED). At that entry its slots
start with their crossover state, delay line and g at 0, their speaker delay computed and their state decided again, and their lanes take the rate
(R20, R75, R76, R79, R103, R106, R111); the first block begins at once with PCM, from a decoder at a span position that is a multiple of 32 (R63).
Sharing a decoder that is not LOCKED is not shown here. The model's choices: a zone that shares a LOCKED decoder joins its span at the furthest
position a user has taken, `playPos`, and begins its first block within this event when that position is a multiple of 32 (log 12); the reply
stands before the notices (log 4). -/
def Obligations.AcquisitionTestDecides : Prop :=
  ∀ (s : State) (c : Command) (z : ZoneId) (e : SourceId), Heads s c → c.kind = 0x20 → c.payload = [byteOf z, 0] →
    (s.zone z).state = .standby → (s.zone z).source = some e → (s.zone z).decoder = none →
    let p := (s.source e).port
    let waits := fun (r : Reason) (list : List ZoneId) (t : State) => exec .zonePower s = .next t ∧
      Noted { answered s c .ok [] with
        zones := s.zones.set z { s.zone z with state := .acquiring, reason := some r }, waitList := list } t
    let others := s.waitList.filter (· != z)
    ((s.source e).enabled = false → ∃ t, waits .noSource others t) ∧
    ((s.source e).enabled = true →
      ((s.port p).state ≠ .locked → ∃ t, waits .noSignal others t) ∧
      ((s.port p).state = .locked →
        ((s.port p).content = .undetermined → ∃ t, waits .undetermined others t) ∧
        ((s.port p).content = .unsupported → ∃ t, waits .unsupported others t) ∧
        (∀ r, (s.port p).content = .pcm → (s.port p).rate = some r → ∃ t, exec .zonePower s = .next t ∧
          (t.zone z).state = .running ∧ (t.zone z).reason = none ∧ (t.zone z).rate = some r ∧
          (t.zone z).map = some (s.source e).map ∧ (t.zone z).decoder = none ∧ z ∉ t.waitList ∧
          (t.zone z).blockPos = some 0 ∧ SlotsStarted s t z r true true ∧ Replayed (answered s c .ok []) t) ∧
        ((s.port p).content = .packed →
          ((∀ d : DecoderId, (s.decoder d).port ≠ some p ∧ (s.decoder d).port ≠ none) → z ∉ s.waitList →
            ∃ t, waits .waitDecoder (s.waitList ++ [z]) t) ∧
          (∀ d : DecoderId, (∀ d', (s.decoder d').port ≠ some p) → (s.decoder d).port = none →
            (∀ d' : DecoderId, d' < d → (s.decoder d').port ≠ none) →
            ∃ t, exec .zonePower s = .next t ∧ (t.zone z).state = .acquiring ∧ (t.zone z).reason = some .decoderSync ∧
              (t.zone z).decoder = some d ∧ (t.decoder d).port = some p ∧ (t.decoder d).state = .search ∧
              (t.decoder d).counters = Decoder.reset.counters ∧ (t.decoder d).chain = none ∧ (t.decoder d).lastCause = .none ∧
              Replayed (answered s c .ok []) t) ∧
          (∀ (d : DecoderId) (h : Header), s.decoderOn p = some d → (s.decoder d).state = .locked → (s.decoder d).header = some h →
            ∃ t, exec .zonePower s = .next t ∧ (t.zone z).state = .running ∧ (t.zone z).reason = none ∧
              (t.zone z).rate = some h.rate ∧ (t.zone z).map = some h.map ∧ (t.zone z).decoder = some d ∧
              (let begun := decide ((s.decoder d).playPos % 32 = 0 ∧ (s.decoder d).playPos < 256)
               (t.zone z).spanPos = (s.decoder d).playPos ∧ (t.zone z).blockPos = (if begun then some 0 else none) ∧
                 SlotsStarted s t z h.rate true begun) ∧
              Replayed (answered s c .ok []) t))))

/-- ZONE.SOURCE (R30): in STANDBY the source is written and nothing else; in a powered zone an ANNOUNCEMENT entry on top of the stack is
discarded first, an unchanged source leaves the zone as it is, none takes it to IDLE with its program left, another source takes it to
ACQUIRING, or through the acquisition test to RUNNING. A disabled source is refused with NOT_NOW and changes nothing. That the reply stands
before the notices is the model's choice (log 4). -/
def Obligations.ZoneSourceSelects : Prop :=
  ∀ (s : State) (c : Command) (z : ZoneId) (b : Byte) (src : Option SourceId), Calm s → Heads s c → c.kind = 0x21 →
    c.payload = [byteOf z, b] → (b = 255 ∧ src = none ∨ ∃ e : SourceId, b = byteOf e ∧ src = some e) →
    let x := s.zone z
    let stack := match x.stack with
      | top :: rest => if top.cause = .announcement then rest else top :: rest
      | [] => []
    ((∃ e, src = some e ∧ (s.source e).enabled = false) → exec .zoneSource s = .next (answered s c .notNow [])) ∧
    ((∀ e, src = some e → (s.source e).enabled = true) →
      (x.state = .standby → ∃ t, exec .zoneSource s = .next t ∧
        Noted { answered s c .ok [] with zones := s.zones.set z { x with source := src } } t) ∧
      (x.state ≠ .standby → x.source = src → ∃ t, exec .zoneSource s = .next t ∧
        Noted { answered s c .ok [] with zones := s.zones.set z { x with stack := stack } } t) ∧
      (x.state ≠ .standby → x.source ≠ src → ∃ t, exec .zoneSource s = .next t ∧
        (src = none → (t.zone z).state = .idle ∧ (t.zone z).rate = none ∧ (t.zone z).map = none ∧ (t.zone z).allocation = 0 ∧
          (t.zone z).hold = none ∧ (t.zone z).decoder = none) ∧
        (src ≠ none → (t.zone z).state = .acquiring ∨ (t.zone z).state = .running) ∧
        Replayed { answered s c .ok [] with zones := s.zones.set z { x with source := src, stack := stack } } t))

/-- ZONE.MAXVOL: the maximum is clamped to −160..+24 and written, the volume in force and a staged volume are lowered to it, the
announcement volume and the volumes on the stack stay; the reply is OK or CLAMPED with the maximum applied. It acts whatever the CONTINUE
flag, and nothing else changes. A zone above 2 is refused with BAD_VALUE. -/
def Obligations.ZoneMaxvolSetsCeiling : Prop :=
  ∀ (s : State) (c : Command) (b hi lo : Byte), Calm s → Heads s c → c.kind = 0x23 → c.payload = [b, hi, lo] →
    (2 < b.toNat → exec .zoneMaxvol s = .next (answered s c .badValue [])) ∧
    (∀ z : ZoneId, b = byteOf z →
      let x := s.zone z
      let m := max (-160) (min 24 (word2 hi lo))
      exec .zoneMaxvol s = .next { answered s c (if m = word2 hi lo then .ok else .clamped) (encInt2 m) with
        zones := s.zones.set z { x with
          maxVolume := m, volume := min x.volume m, staged := { x.staged with volume := x.staged.volume.map (fun v => min v m) } } })

/-- ZONE.PUSH saves source, volume and mute with cause HOST and gives the zone the new source, the clamped volume and mute off; it is
refused with NOT_NOW in STANDBY, with four entries on the stack, or for a disabled source. ZONE.POP restores the top entry, its volume
clamped to the maximum in force; an empty stack is refused with NOT_NOW. Beside this nothing changes but what the zones play (R34, R35). A push
of source none is not shown here. The model's choices: the reply stands before the notices (log 4), and OK of ZONE.PUSH carries no volume
(log 6). -/
def Obligations.ZonePushAndPop : Prop :=
  ∀ (s : State) (c : Command) (z : ZoneId), Calm s → Heads s c →
    let x := s.zone z
    (∀ (e : SourceId) (hi lo : Byte), c.kind = 0x25 → c.payload = [byteOf z, byteOf e, hi, lo] →
      (x.state = .standby ∨ 4 ≤ x.stack.length ∨ (s.source e).enabled = false → exec .zonePush s = .next (answered s c .notNow [])) ∧
      (x.state ≠ .standby → x.stack.length < 4 → (s.source e).enabled = true → -160 ≤ x.maxVolume →
        let v := max (-160) (min x.maxVolume (word2 hi lo))
        ∃ t, exec .zonePush s = .next t ∧
          (x.source = some e → (t.zone z).state = x.state) ∧
          (x.source ≠ some e → (t.zone z).state = .acquiring ∨ (t.zone z).state = .running) ∧
          Replayed { answered s c (if v = word2 hi lo then .ok else .clamped) (if v = word2 hi lo then [] else encInt2 v) with
            zones := s.zones.set z { x with
              source := some e, volume := v, mute := false,
              stack := { source := x.source, volume := x.volume, mute := x.mute, cause := .host } :: x.stack } } t)) ∧
    (c.kind = 0x26 → c.payload = [byteOf z] →
      (x.stack = [] → exec .zonePop s = .next (answered s c .notNow [])) ∧
      (∀ top rest, x.stack = top :: rest → -160 ≤ x.maxVolume →
        let v := max (-160) (min x.maxVolume top.volume)
        ∃ t, exec .zonePop s = .next t ∧
          (x.source = top.source → (t.zone z).state = x.state) ∧
          (x.source ≠ top.source → top.source = none → (t.zone z).state = .idle) ∧
          (x.source ≠ top.source → top.source ≠ none → (t.zone z).state = .acquiring ∨ (t.zone z).state = .running) ∧
          Replayed { answered s c (if v = top.volume then .ok else .clamped) (encIndex top.source ++ encInt2 v ++ encOn top.mute) with
            zones := s.zones.set z { x with source := top.source, volume := v, mute := top.mute, stack := rest } } t))

/-- ZONE.ANNOUNCE writes policy, source and announcement volume, clamped to −160..+24; FOLLOW asks for an entry on P10 (else BAD_VALUE) that is
enabled (else NOT_NOW), IGNORE for none of that. Nothing else changes (R36). That CLAMPED carries no volume is the model's choice (log 6). -/
def Obligations.ZoneAnnounceSetsPolicy : Prop :=
  ∀ (s : State) (c : Command) (z : ZoneId) (e : SourceId) (hi lo : Byte), Calm s → Heads s c → c.kind = 0x27 →
    let v := max (-160) (min 24 (word2 hi lo))
    let done := fun (p : Policy) => exec .zoneAnnounce s = .next { answered s c (if v = word2 hi lo then .ok else .clamped) [] with
      zones := s.zones.set z { s.zone z with policy := p, annSource := some e, annVolume := v } }
    (c.payload = [byteOf z, 0, byteOf e, hi, lo] → done .ignore) ∧
    (c.payload = [byteOf z, 1, byteOf e, hi, lo] →
      ((s.source e).port ≠ 10 → exec .zoneAnnounce s = .next (answered s c .badValue [])) ∧
      ((s.source e).port = 10 → (s.source e).enabled = false → exec .zoneAnnounce s = .next (answered s c .notNow [])) ∧
      ((s.source e).port = 10 → (s.source e).enabled = true → done .follow))

/-- ZONE.FLAGS.CLEAR clears DELAY_CLAMPED and ANN_MISSED of the zone and OVERFLOW and LIMIT of every slot assigned to it; clip counters,
allocations and every other slot stay, and no notice is raised. A zone above 2 is refused with BAD_VALUE. -/
def Obligations.ZoneFlagsClearClears : Prop :=
  ∀ (s : State) (c : Command) (b : Byte), Calm s → Heads s c → c.kind = 0x2C → c.payload = [b] →
    (2 < b.toNat → exec .zoneFlagsClear s = .next (answered s c .badValue [])) ∧
    (∀ z : ZoneId, b = byteOf z → exec .zoneFlagsClear s = .next { answered s c .ok [] with
      zones := s.zones.set z { s.zone z with delayClamped := false, annMissed := false },
      slots := s.slots.map fun x =>
        if x.assigned.any (fun a => a.zone == z) then { x with overflow := false, limited := false } else x })

/-- The hold timer of a HELD zone (R22, R23): at 500 ms the zone leaves its program, its rate, map, delay, allocation, matrix and hold timer
cleared, its decoder kept, and goes to ACQUIRING, where the acquisition test runs at once: it may take it to RUNNING, and only there, on a
port with PCM, does the zone leave its decoder. With its port lost the zone waits with reason NO_SIGNAL, and nothing else changes. The
model's choice: an expiry row moves the clock to the later of now and its start plus limit (log 1). -/
def Obligations.HoldTimerExpires : Prop :=
  ∀ (s : State) (z : ZoneId) (t0 : Nat), (s.zone z).state = .held → (s.zone z).hold = some t0 →
    let x := s.zone z
    (∃ t, exec (.holdTimerExpiry z) s = .next t ∧ t.now = max s.now (t0 + 500) ∧ (t.zone z).hold = none ∧
      ((t.zone z).state = .acquiring ∨ (t.zone z).state = .running) ∧
      ((t.zone z).state = .acquiring → (t.zone z).rate = none ∧ (t.zone z).map = none ∧ (t.zone z).allocation = 0 ∧ (t.zone z).delay = 0 ∧
        (t.zone z).lines = [] ∧ (t.zone z).matrix = none ∧ (t.zone z).stale = false) ∧
      (∀ d, x.decoder = some d → (t.zone z).decoder = some d ∨
        ((t.zone z).decoder = none ∧ (t.zone z).state = .running ∧ ∃ e, x.source = some e ∧ (s.port (s.source e).port).content = .pcm)) ∧
      Replayed { s with now := max s.now (t0 + 500) } t) ∧
    (∀ e, x.source = some e → (s.source e).enabled = true → (s.port (s.source e).port).state ≠ .locked →
      ∃ t, exec (.holdTimerExpiry z) s = .next t ∧ Noted { s with
        now := max s.now (t0 + 500), waitList := s.waitList.filter (· != z),
        zones := s.zones.set z { x with
          state := .acquiring, reason := some .noSignal, rate := none, map := none, hold := none, allocation := 0, delay := 0, lines := [],
          matrix := none, stale := false, deriveDue := false, lipsyncDue := false } } t)

/-- A change of the port a RUNNING zone listens to (R21, R22): when the port leaves LOCKED the zone enters HELD, keeping rate, map, decoder
and allocation, its hold timer started and its slots ramping out, and a slot of it whose distance waits for a block boundary has its speaker
delay computed at once with the rate the zone holds, its line zeroed when the delay differs, no other slot changing; R193 says so of a
staged distance whose group has closed, of one set alone it is the model's choice (log 66); a HELD zone of a PCM program whose port is
LOCKED again with PCM at the rate it holds returns to RUNNING with the allocation it kept, its slots starting anew with the speaker delays
they kept and its lanes taking the rate (R20, R79, R103, R106). A lost clock of a LOCKED watched port takes each RUNNING zone that listens
to it to HELD in this way. -/
def Obligations.HeldAndReturned : Prop :=
  ∀ (s : State) (p : PortId) (e : SourceId) (z : ZoneId), (s.zone z).source = some e → (s.source e).port = p →
    let held := { s.zone z with
      state := .held, hold := some s.now, rampOut := true, stale := (s.zone z).stale || (s.zone z).deriveDue, deriveDue := false }
    ((s.zone z).state = .running → (s.zone z).lipsyncDue = false → (s.port p).state ≠ .locked →
      let t := State.zonePortReport p s z
      t.zone z = held ∧
      ∀ r, (s.zone z).rate = some r → ∀ i : SlotId, let y := s.slot i
        let delay := (y.distance * Config.rateHz r + 17150) / 34300
        t.slot i = if y.assigned.any (fun a => a.zone == z) ∧ y.distanceDue = true then { y with
          distanceDue := false, delay := delay, line := if delay = y.delay then y.line else [] } else y) ∧
    (∀ r, (s.zone z).state = .held → (s.zone z).decoder = none → (s.zone z).rate = some r → (s.port p).state = .locked →
      (s.port p).content = .pcm → (s.port p).rate = some r →
      let t := State.zonePortReport p s z
      (t.zone z).state = .running ∧ (t.zone z).hold = none ∧ (t.zone z).rate = some r ∧ (t.zone z).map = some (s.source e).map ∧
        (t.zone z).allocation = (s.zone z).allocation ∧ (t.zone z).delay = (s.zone z).delay ∧
        (t.zone z).lines = List.replicate (s.source e).map.length [] ∧ SlotsStarted s t z r false true) ∧
    (p.val ≤ 5 → (s.port p).state = .locked → (s.zone z).state = .running → (s.zone z).lipsyncDue = false → z ∉ s.waitList →
      ∃ t, exec (.clockLost p) s = .next t ∧ t.zone z = held ∧
        Replayed { s with ports := s.ports.set p { Port.reset with state := .noSignal } } t)

/-- An announcement start reaches a powered zone with policy FOLLOW whose source is not on P10: with four entries on its stack it sets ANN_MISSED
and nothing else; otherwise its context is saved with cause ANNOUNCEMENT, and it takes the announcement source, the announcement volume clamped to
its maximum and mute off. Any other zone is left as it is (R37). An announcement end restores an ANNOUNCEMENT entry on top; one below HOST entries
is removed, and the entry directly above it takes its source, volume and mute and keeps its cause; a zone without one is left as it is (R38). The
model's choice: a set run that stands at 2 with no announcement active starts one at the next group with the bit set (log 58). -/
def Obligations.AnnouncementsTakeAndReleaseZones : Prop :=
  (∀ (s : State) (z : ZoneId),
    let x := s.zone z
    let follows := x.state ≠ .standby ∧ x.policy = .follow ∧ ∀ e, x.source = some e → (s.source e).port ≠ 10
    (¬ follows → s.announceStart z = s) ∧
    (follows → 4 ≤ x.stack.length → hushed (s.announceStart z) = hushed { s with zones := s.zones.set z { x with annMissed := true } }) ∧
    (follows → x.stack.length < 4 → -160 ≤ x.maxVolume →
      offAir (s.announceStart z) = offAir { s with zones := s.zones.set z { x with
        source := x.annSource, volume := max (-160) (min x.maxVolume x.annVolume), mute := false,
        stack := { source := x.source, volume := x.volume, mute := x.mute, cause := .announcement } :: x.stack } })) ∧
  (∀ (s : State) (z : ZoneId),
    let x := s.zone z
    ((∀ y ∈ x.stack, y.cause = .host) → s.announceEnd z = s) ∧
    (∀ top rest, x.stack = top :: rest → top.cause = .announcement → -160 ≤ x.maxVolume →
      offAir (s.announceEnd z) = offAir { s with zones := s.zones.set z { x with
        source := top.source, volume := max (-160) (min x.maxVolume top.volume), mute := top.mute, stack := rest } }) ∧
    (∀ above heir ann below, x.stack = above ++ heir :: ann :: below → (∀ y ∈ above, y.cause = .host) → heir.cause = .host →
      ann.cause = .announcement →
      hushed (s.announceEnd z) = hushed { s with zones := s.zones.set z { x with
        stack := above ++ { source := ann.source, volume := ann.volume, mute := ann.mute, cause := .host } :: below } })) ∧
  (let holds := fun (t : State) (after : ZoneId → Zone) => ∀ z : ZoneId,
     (t.zone z).source = (after z).source ∧ (t.zone z).volume = (after z).volume ∧ (t.zone z).mute = (after z).mute ∧
       (t.zone z).stack = (after z).stack ∧ (t.zone z).annMissed = (after z).annMissed
   (∀ (s : State) (b0 b1 b2 b3 b4 b5 : Byte), s.tuner.state = .idle → s.tuner.band = .fm → b0.toNat / 16 = 0 →
     b1 ++ b2 ≠ (0 : BitVec 16) → s.stationData.stable = some (b1 ++ b2) →
     let row := Instr.stationDataGroup [b0, b1, b2, b3, b4, b5, 0xA5 ^^^ b0 ^^^ b1 ^^^ b2 ^^^ b3 ^^^ b4 ^^^ b5]
     (b3.getLsbD 1 = true → 1 ≤ s.stationData.setRun → s.stationData.active = none → s.stationData.rearm = false →
       ∃ t, exec row s = .next t ∧ holds t fun z => (s.announceStart z).zone z) ∧
     (b3.getLsbD 1 = false → 1 ≤ s.stationData.clearRun → s.stationData.active ≠ none →
       ∃ t, exec row s = .next t ∧ holds t fun z => (s.announceEnd z).zone z)) ∧
   (∀ (s : State) (t0 : Nat), s.stationData.active = some t0 →
     ∃ t, exec .announcementTimeout s = .next t ∧ holds t fun z => (s.announceEnd z).zone z))

/-! ## Render commands and groups (02, 05, 06, 11) -/

/-- A render command of a zone, taken with CONTINUE clear and no group open, writes its field and nothing else; in a RUNNING zone what
waits for the next block boundary is marked, in a HELD zone the matrix is stale and a lip-sync is recomputed at once (R31, R33; R67, R83,
R84 of chapter 04; R86, R94 to R96, R98 to R100 of chapter 05). ADD is shown for one row. That in a HELD zone the reply stands before a
notice is the model's choice (log 4). -/
def Obligations.ZoneRenderCommandsAlone : Prop :=
  ∀ (s : State) (c : Command) (z : ZoneId), Calm s → Heads s c → c.flags = 0 → s.control.group = none →
    let x := s.zone z
    let writes := fun (row : Instr) (r : Result) (data : List Byte) (y : Zone) =>
      exec row s = .next { answered s c r data with zones := s.zones.set z y }
    let rederive := fun (y : Zone) => { y with deriveDue := y.deriveDue || x.state == .running, stale := y.stale || x.state == .held }
    (∀ hi lo : Byte, c.kind = 0x22 → c.payload = [byteOf z, hi, lo] → -160 ≤ x.maxVolume →
      let v := max (-160) (min x.maxVolume (word2 hi lo))
      writes .zoneVolume (if v = word2 hi lo then .ok else .clamped) (encInt2 v) { x with volume := v }) ∧
    (∀ on : Bool, c.payload = [byteOf z, if on then 0 else 1] →
      (c.kind = 0x24 → writes .zoneMute .ok [] { x with mute := on }) ∧
      (c.kind = 0x29 → writes .zoneDrc .ok [] { x with dynamicGain := on }) ∧
      (c.kind = 0x2A → writes .zoneUpmix .ok [] (rederive { x with upmix := on })) ∧
      (c.kind = 0x3B → writes .matrixMode .ok [] (rederive { x with matrixMode := if on then .default else .custom }))) ∧
    (∀ hi lo : Byte, c.kind = 0x28 → c.payload = [byteOf z, hi, lo] → x.state ≠ .held →
      let v := max 0 (min 200 (word2 hi lo))
      writes .zoneLipsync (if v = word2 hi lo then .ok else .clamped) (encInt2 v)
        { x with lipsync := v.toNat, lipsyncDue := x.lipsyncDue || x.state == .running }) ∧
    (∀ hi lo : Byte, c.kind = 0x28 → c.payload = [byteOf z, hi, lo] → x.state = .held →
      let v := max 0 (min 200 (word2 hi lo))
      ∃ t, exec .zoneLipsync s = .next t ∧
        (∀ e r map, x.source = some e → x.rate = some r → x.map = some map →
          let g := grantDelay (s.poolAvail z) map.length (requestedDelay v.toNat (s.source e).offset (Config.rateHz r))
          (t.zone z).delay = g.1 ∧ (t.zone z).allocation = map.length * g.1) ∧
        Replayed { answered s c (if v = word2 hi lo then .ok else .clamped) (encInt2 v) with
          zones := s.zones.set z { x with lipsync := v.toNat } } t) ∧
    (∀ sizes : Vector Size 12, c.kind = 0x38 → c.payload = byteOf z :: sizes.toList.map sizeByte →
      sizes[0] ≠ .absent → sizes[1] ≠ .absent → (z = 0 ∨ ∀ r : Role, r ≠ 0 → r ≠ 1 → r ≠ 3 → sizes[r] = .absent) →
      writes .layoutSet .ok [] (rederive { x with layout := if sizes[3] = .absent then sizes else sizes.set 3 .large })) ∧
    (∀ b0 b1 b2 a1 a2 : BitVec 32, ∀ low : Bool, c.kind = 0x39 →
      c.payload = byteOf z :: (if low then 1 else 0) :: (bytes4 b0 ++ bytes4 b1 ++ bytes4 b2 ++ bytes4 a1 ++ bytes4 a2) →
      let set : XoverSet := { b0 := b0.toInt, b1 := b1.toInt, b2 := b2.toInt, a1 := a1.toInt, a2 := a2.toInt }
      writes .xoverLoad .ok [] (if low then { x with low := set, lowDue := x.lowDue || x.state == .running }
        else { x with high := set, highDue := x.highDue || x.state == .running })) ∧
    (∀ (map : List Role) (rows : List MatrixRow), c.kind = 0x3A →
      c.payload = byteOf z :: 0 :: BitVec.ofNat 8 map.length ::
        (map.map byteOf ++ BitVec.ofNat 8 rows.length :: rows.flatMap rowBytes) →
      1 ≤ map.length → map.length ≤ 12 → map.Nodup → rows.length ≤ 6 → (rows.map (·.role)).Nodup →
      (∀ r ∈ rows, r.coefs.length = map.length ∧ (∀ v ∈ r.coefs, -32768 ≤ v ∧ v ≤ 32767) ∧
        (z = 0 ∨ r.role = 0 ∨ r.role = 1 ∨ r.role = 3)) →
      writes .matrixLoad .ok [] (rederive { x with store := some { map := map, rows := rows } })) ∧
    (∀ (map : List Role) (row : MatrixRow), c.kind = 0x3A → x.staged.loads = [] →
      c.payload = byteOf z :: 1 :: BitVec.ofNat 8 map.length :: (map.map byteOf ++ 1 :: rowBytes row) →
      1 ≤ map.length → map.length ≤ 12 → map.Nodup → row.coefs.length = map.length → (∀ v ∈ row.coefs, -32768 ≤ v ∧ v ≤ 32767) →
      (z = 0 ∨ row.role = 0 ∨ row.role = 1 ∨ row.role = 3) →
      (x.store.map (·.map) ≠ some map → exec .matrixLoad s = .next (answered s c .notNow [])) ∧
      (∀ stored, x.store = some { map := map, rows := stored } →
        let rows := if ∃ y ∈ stored, y.role = row.role then stored.map (fun y => if y.role = row.role then row else y) else stored ++ [row]
        writes .matrixLoad .ok [] (rederive { x with store := some { map := map, rows := rows } })))

/-- SLOT.DISTANCE, SLOT.TRIM and SLOT.LIMIT, taken with CONTINUE clear and no group open: an unassigned slot is refused with NOT_NOW; otherwise
the value is clamped to 0..1000, −24..+24 or 0..48 and written, and nothing else changes but that a distance of a slot whose zone is HELD gives
its speaker delay at once, and that of a RUNNING zone awaits the block boundary (R111 to R114). That OK carries no value is the model's choice
(log 6). -/
def Obligations.SlotRenderCommandsAlone : Prop :=
  ∀ (s : State) (c : Command) (i : SlotId) (hi lo : Byte), Calm s → Heads s c → c.flags = 0 → s.control.group = none →
    c.payload = [byteOf i, hi, lo] →
    let y := s.slot i
    let reply := fun (v : Int) => answered s c (if v = word2 hi lo then .ok else .clamped) (if v = word2 hi lo then [] else encInt2 v)
    (y.assigned = none →
      (c.kind = 0x42 → exec .slotDistance s = .next (answered s c .notNow [])) ∧
      (c.kind = 0x43 → exec .slotTrim s = .next (answered s c .notNow [])) ∧
      (c.kind = 0x44 → exec .slotLimit s = .next (answered s c .notNow []))) ∧
    (∀ a, y.assigned = some a →
      (c.kind = 0x43 → let v := max (-24) (min 24 (word2 hi lo))
        exec .slotTrim s = .next { reply v with slots := s.slots.set i { y with trim := v } }) ∧
      (c.kind = 0x44 → let v := max 0 (min 48 (word2 hi lo))
        exec .slotLimit s = .next { reply v with slots := s.slots.set i { y with limit := v.toNat } }) ∧
      (c.kind = 0x42 → let v := max 0 (min 1000 (word2 hi lo))
        ((s.zone a.zone).state ≠ .held →
          let y' := { y with distance := v.toNat, distanceDue := y.distanceDue || (s.zone a.zone).state == .running }
          exec .slotDistance s = .next { reply v with slots := s.slots.set i y' }) ∧
        (∀ r, (s.zone a.zone).state = .held → (s.zone a.zone).rate = some r →
          let d := (v.toNat * Config.rateHz r + 17150) / 34300
          let y' := { y with distance := v.toNat, distanceDue := false, delay := d, line := if d = y.delay then y.line else [] }
          exec .slotDistance s = .next { reply v with slots := s.slots.set i y' })))

/-- A render command taken with CONTINUE set changes nothing but pending records and the group record: accepted, it opens the group with a
count of 1 and its timer at 0, or adds 1 to the count; refused, it stages nothing and leaves the group as it is. Every value is staged as
applied and replaces a value staged before for the same field: volume, mute, lip-sync, dynamic gain, upmix, layout, crossover set, matrix
mode, distance, trim, limit; the loads of a matrix are kept in the order taken. A loaded matrix is shown for option NEW (R191, R192). -/
def Obligations.GroupedCommandOnlyStages : Prop :=
  ∀ (s : State) (c : Command), Calm s → Heads s c → c.flags = 1 →
    (∀ row ∈ renderRows, c.kind = row.2 → ∃ t r data, exec row.1 s = .next t ∧ unstaged t = unstaged (answered s c r data) ∧
      (((r = .ok ∨ r = .clamped) ∧ t.control.group = some (match s.control.group with
          | none => { count := 1, since := s.now }
          | some g => { count := g.count + 1, since := g.since })) ∨
        (r ≠ .ok ∧ r ≠ .clamped ∧ t = answered s c r data))) ∧
    (∀ (z : ZoneId) (hi lo : Byte) (t : State), -160 ≤ (s.zone z).maxVolume → c.kind = 0x22 → c.payload = [byteOf z, hi, lo] →
      exec .zoneVolume s = .next t →
      (t.zone z).staged = { (s.zone z).staged with volume := some (max (-160) (min (s.zone z).maxVolume (word2 hi lo))) }) ∧
    (∀ (z : ZoneId) (on : Bool) (t : State), c.kind = 0x24 → c.payload = [byteOf z, if on then 0 else 1] →
      exec .zoneMute s = .next t → (t.zone z).staged = { (s.zone z).staged with mute := some on }) ∧
    (∀ (i : SlotId) (hi lo : Byte) (t : State), (s.slot i).assigned ≠ none → c.kind = 0x43 → c.payload = [byteOf i, hi, lo] →
      exec .slotTrim s = .next t →
      (t.slot i).staged = { (s.slot i).staged with trim := some (max (-24) (min 24 (word2 hi lo))) }) ∧
    (∀ z : ZoneId,
      let x := (s.zone z).staged
      let stages := fun (row : Instr) (y : ZoneStaged) => ∃ t, exec row s = .next t ∧ (t.zone z).staged = y
      (∀ hi lo : Byte, c.kind = 0x28 → c.payload = [byteOf z, hi, lo] →
        stages .zoneLipsync { x with lipsync := some (max 0 (min 200 (word2 hi lo))).toNat }) ∧
      (∀ on : Bool, c.payload = [byteOf z, if on then 0 else 1] →
        (c.kind = 0x29 → stages .zoneDrc { x with dynamicGain := some on }) ∧
        (c.kind = 0x2A → stages .zoneUpmix { x with upmix := some on }) ∧
        (c.kind = 0x3B → stages .matrixMode { x with mode := some (if on then .default else .custom) })) ∧
      (∀ sizes : Vector Size 12, c.kind = 0x38 → c.payload = byteOf z :: sizes.toList.map sizeByte →
        sizes[0] ≠ .absent → sizes[1] ≠ .absent → (z = 0 ∨ ∀ r : Role, r ≠ 0 → r ≠ 1 → r ≠ 3 → sizes[r] = .absent) →
        stages .layoutSet { x with layout := some (if sizes[3] = .absent then sizes else sizes.set 3 .large) }) ∧
      (∀ b0 b1 b2 a1 a2 : BitVec 32, ∀ low : Bool, c.kind = 0x39 →
        c.payload = byteOf z :: (if low then 1 else 0) :: (bytes4 b0 ++ bytes4 b1 ++ bytes4 b2 ++ bytes4 a1 ++ bytes4 a2) →
        let set : XoverSet := { b0 := b0.toInt, b1 := b1.toInt, b2 := b2.toInt, a1 := a1.toInt, a2 := a2.toInt }
        stages .xoverLoad (if low then { x with low := some set } else { x with high := some set })) ∧
      (∀ (map : List Role) (rows : List MatrixRow), c.kind = 0x3A →
        c.payload = byteOf z :: 0 :: BitVec.ofNat 8 map.length ::
          (map.map byteOf ++ BitVec.ofNat 8 rows.length :: rows.flatMap rowBytes) →
        1 ≤ map.length → map.length ≤ 12 → map.Nodup → rows.length ≤ 6 → (rows.map (·.role)).Nodup →
        (∀ r ∈ rows, r.coefs.length = map.length ∧ (∀ v ∈ r.coefs, -32768 ≤ v ∧ v ≤ 32767) ∧
          (z = 0 ∨ r.role = 0 ∨ r.role = 1 ∨ r.role = 3)) →
        stages .matrixLoad { x with loads := x.loads ++ [{ replaces := true, map := map, rows := rows }] })) ∧
    (∀ (i : SlotId) (hi lo : Byte), (s.slot i).assigned ≠ none → c.payload = [byteOf i, hi, lo] →
      let x := (s.slot i).staged
      let stages := fun (row : Instr) (y : SlotStaged) => ∃ t, exec row s = .next t ∧ (t.slot i).staged = y
      (c.kind = 0x42 → stages .slotDistance { x with distance := some (max 0 (min 1000 (word2 hi lo))).toNat }) ∧
      (c.kind = 0x44 → stages .slotLimit { x with limit := some (max 0 (min 48 (word2 hi lo))).toNat }))

/-- A render command taken with CONTINUE clear while a group is open closes it, also when it is refused: the group is closed, every pending
record is empty, and every zone and slot holds the values that were staged for it, a staged volume clamped to the maximum in force; a field
for which nothing was staged keeps its value. In a RUNNING zone the derivation, the recomputation, the new sets and the speaker delays await
the next block boundary; a HELD zone keeps its matrix, stale when an input of the derivation was staged, and has its delay and allocation,
when a lip-sync was staged, and the speaker delay of a staged distance computed at once, a line zeroed when its delay differs (R67, R95,
R111). Shown for a refused command of a zone above 2 and for SLOT.LIMIT, whose own value is staged first (R193, R31). At 250 ms an open
group expires: every pending record is emptied without being applied, the group is closed, and nothing else changes but what belongs to
notices; masked, the counts of the GROUP notice grow by what was discarded (R194). The model's choices: a RUNNING zone's records hold the
staged values within the closing event, where R193 has them applied at the zone's next block boundary (log 5, deduced); HELD zones recompute
in order of their numbers (log 53); an expiry row moves the clock to the later of now and its start plus limit (log 1). -/
def Obligations.GroupCloseAndExpiry : Prop :=
  (∀ (s : State) (c : Command) (g : OpenGroup), Heads s c → c.flags = 0 → s.control.group = some g →
    (∀ row ∈ zoneRenderRows, ∀ (b : Byte) (rest : List Byte), c.kind = row.2 → c.payload = b :: rest → 2 < b.toNat →
      ∃ t, exec row.1 s = .next t ∧ GroupApplied s t (fun _ => none)) ∧
    (∀ (i : SlotId) (hi lo : Byte), c.kind = 0x44 → c.payload = [byteOf i, hi, lo] → (s.slot i).assigned ≠ none →
      ∃ t, exec .slotLimit s = .next t ∧
        GroupApplied s t (fun j => if j = i then some (max 0 (min 48 (word2 hi lo))).toNat else none))) ∧
  (∀ (s : State) (g : OpenGroup), s.control.group = some g →
    ∃ t, exec .groupTimerExpiry s = .next t ∧ t.control.group = none ∧
      (∀ z : ZoneId, (t.zone z).staged = .empty) ∧ (∀ i : SlotId, (t.slot i).staged = .empty) ∧
      hushed (unstaged t) = hushed (unstaged { s with now := max s.now (g.since + 250) }) ∧
      (s.control.enabled[12] = false →
        t.control.groupsExpired = min 255 (s.control.groupsExpired + 1) ∧
        t.control.commandsDiscarded = min 65535 (s.control.commandsDiscarded + g.count) ∧
        ∀ n : Nat, n ∈ t.control.zonesDiscarded ↔ n ∈ s.control.zonesDiscarded ∨
          ∃ z : ZoneId, z.val = n ∧ ((s.zone z).staged ≠ .empty ∨
            ∃ i a, (s.slot i).assigned = some a ∧ a.zone = z ∧ (s.slot i).staged ≠ .empty)))

/-! ## Stream decoders (03) -/

/-- The end mark of every word of a frame in assembly is checked against its place: it is rejected with cause FRAMING exactly at a word whose
end mark differs from the one its place requires, the metadata block ending at its first end mark, at its sixteenth word at the latest,
after which channel block 0 begins (R43). Where one word breaks an end mark and a header check, the model looks at the end mark first
(log 17). With its end mark right, a format word or a map word that breaks a header check is rejected with cause FORMAT, and another gives its
fields or roles (R42); a metadata word in its range sets its item or adds a point, another is counted as ignored (R46); a channel word gives its
sample. The check word verifies the frame when its payload equals the running sum and rejects it with cause CHECK otherwise; every word
accepted before it adds its payload to the sum, modulo 2^23 (R44). -/
def Obligations.FrameWordsChecked : Prop :=
  (∀ (a : Assembly) (w : TWord),
    (a.take w = .rejected .framing ↔ match a.place with
      | .format => w.getLsbD 23 = true
      | .map k => w.getLsbD 23 ≠ decide (k + 1 = (a.channels + 4) / 5)
      | .metadata k => k = 15 ∧ w.getLsbD 23 = false
      | .channel _ i => w.getLsbD 23 ≠ decide (i = 255)
      | .check => w.getLsbD 23 = false) ∧
    (∀ k a', a.place = .metadata k → a.take w = .more a' → a'.place = if w.getLsbD 23 then .channel 0 0 else .metadata (k + 1)) ∧
    (∀ b a', a.place = .channel b 255 → a.take w = .more a' → a'.place = if b + 1 < a.channels then .channel (b + 1) 0 else .check)) ∧
  (∀ (a : Assembly) (w : TWord),
    (a.place = .check → w.getLsbD 23 = true →
      a.take w = if w.extractLsb' 0 23 = a.sum then .verified a else .rejected .check) ∧
    (∀ a', a.take w = .more a' → a'.sum = a.sum + w.extractLsb' 0 23)) ∧
  (∀ (a : Assembly) (w : TWord),
    let bits := fun (lo n : Nat) => (w.extractLsb' lo n).toNat
    let sum := a.sum + w.extractLsb' 0 23
    (a.place = .format → w.getLsbD 23 = false →
      let right := bits 20 3 ≠ 7 ∧ 1 ≤ bits 16 4 ∧ bits 16 4 ≤ 12 ∧ bits 0 11 = 0
      (¬ right → a.take w = .rejected .format) ∧
      (∀ r : RateCode, right → r.val = bits 20 3 → a.take w = .more { a with
        place := .map 0, sum := sum, rate := r, channels := bits 16 4, hasMetadata := w.getLsbD 15, sequence := bits 11 4 })) ∧
    (∀ k, a.place = .map k → w.getLsbD 23 = decide (k + 1 = (a.channels + 4) / 5) →
      let codes := [bits 16 4, bits 12 4, bits 8 4, bits 4 4, bits 0 4]
      let right := bits 20 3 = 0 ∧ ∀ j : Fin 5, let c := codes.getD j 0
        if 5 * k + j < a.channels then c ≤ 11 ∧ c ∉ a.roles ++ codes.take j else c = 15
      (¬ right → a.take w = .rejected .format) ∧
      (right → a.take w = .more { a with
        sum := sum, roles := a.roles ++ codes.take (a.channels - 5 * k),
        place := if w.getLsbD 23 = false then .map (k + 1) else if a.hasMetadata then .metadata 0 else .channel 0 0 })) ∧
    (∀ k, a.place = .metadata k → k < 15 ∨ w.getLsbD 23 = true →
      let v := (w.extractLsb' 0 8).toInt
      let next := { a with sum := sum, place := if w.getLsbD 23 then .channel 0 0 else .metadata (k + 1) }
      a.take w = .more (match bits 20 3 with
        | 0 => if -48 ≤ v ∧ v ≤ 0 then { next with level := some v } else { next with ignored := a.ignored + 1 }
        | 1 => if -48 ≤ v ∧ v ≤ 12 ∧ a.points.length < 8 then { next with points := a.points ++ [{ position := bits 8 8, gain := v }] }
          else { next with ignored := a.ignored + 1 }
        | 2 => if -24 ≤ v ∧ v ≤ 0 then { next with centreFold := some v } else { next with ignored := a.ignored + 1 }
        | 3 => if -24 ≤ v ∧ v ≤ 0 then { next with surroundFold := some v } else { next with ignored := a.ignored + 1 }
        | _ => { next with ignored := a.ignored + 1 })) ∧
    (∀ b i, a.place = .channel b i → w.getLsbD 23 = decide (i = 255) →
      let samples := (w.extractLsb' 0 20).toInt :: a.samples
      a.take w = .more (if i = 255
        then { a with sum := sum, samples := [], blocks := samples.reverse :: a.blocks,
                      place := if b + 1 < a.channels then .channel (b + 1) 0 else .check }
        else { a with sum := sum, samples := samples, place := .channel b (i + 1) })))

/-- A word taken, and the states of a decoder. IDLE discards every word. While it scans, a sync word is a sighting; the word after it begins the
frame in assembly when it is a valid candidate format word, a second sync word stays a sighting, and another word returns to the scan; a word
of the frame in assembly goes on with it, rejects it or verifies it (R41, R52). CONFIRM: a sync word at the expected position locks it on the
confirm frame, its play clock started; another word takes it back to SEARCH, its chain emptied (R53). A verified frame is counted, with its
ignored metadata words and a jump of its sequence number in the chain (R45, R46), and the next word is the expected one: from SEARCH it is the
first of a new chain and the decoder enters CONFIRM (R52); in LOCKED and HOLD one at the current rate becomes the ready frame, an older one
counting as a slip, and the bad count is 0 (R54, R56), and one at another rate takes it to CONFIRM with all that was playing discarded (R55). A
rejection is counted with its cause; in SEARCH the scan begins again (R52); in LOCKED and HOLD it adds one to the bad count, up to three times in
HOLD with everything kept; the fourth takes it to SEARCH with one more sync loss and everything discarded (R56). At the expected position of
LOCKED and HOLD a sync word begins the next frame, and another word rejects with cause FRAMING (R54). -/
def Obligations.DecoderStateChanges : Prop :=
  ∀ (d : Decoder) (w : TWord) (cause : RejectCause) (a : Assembly) (h : Header),
    (∀ f, d.state = .confirm → d.mode = .expect → d.confirm = some f →
      (w = 0x2B6E51 → (d.take w).state = .locked ∧ (d.take w).header = some f.header ∧ (d.take w).playing = some f ∧
        (d.take w).confirm = none ∧ (d.take w).clock = true ∧ (d.take w).bad = 0 ∧ (d.take w).mode = .assemble .begin) ∧
      (w ≠ 0x2B6E51 → d.take w = { d with state := .search, mode := .scan, confirm := none, chain := none })) ∧
    (let rising := a.points.Pairwise fun p q => p.position < q.position
     let f := a.frame (if d.state = .search then none else d.chain)
     let jumped := d.state ≠ .search ∧ d.chain.any (fun k => f.sequence != (k.sequence + 1) % 16) = true
     let counted := { d.counters with
       good := count16 d.counters.good, ignored := min 65535 (d.counters.ignored + (a.ignored + if rising then 0 else a.points.length)),
       jumps := if jumped then count16 d.counters.jumps else d.counters.jumps }
     let taken := { d with mode := .expect, chain := some f.carry, counters := counted }
     (d.state = .search → d.verify a = { taken with state := .confirm, confirm := some f }) ∧
     (d.state = .locked ∨ d.state = .hold → d.header = some h →
       (h.rate = a.rate → d.verify a = { taken with
         state := .locked, bad := 0, ready := some f,
         counters := { counted with slips := if d.ready.isSome then count16 d.counters.slips else d.counters.slips } }) ∧
       (h.rate ≠ a.rate → d.verify a = { taken with
         state := .confirm, confirm := some f, ready := none, playing := none, clock := false, playPos := 0, header := none,
         metadata := none, bad := 0 }))) ∧
    (d.state = .search → d.reject cause = { d with
      lastCause := cause, mode := .scan, counters := { d.counters with rejected := count16 d.counters.rejected } }) ∧
    (d.state = .idle → d.take w = d) ∧
    (d.state ≠ .idle →
      (d.mode = .scan → d.take w = if w = 0x2B6E51 then { d with mode := .candidate } else d) ∧
      (d.mode = .candidate →
        let bits := fun (lo n : Nat) => (w.extractLsb' lo n).toNat
        let right := w.getLsbD 23 = false ∧ bits 20 3 ≠ 7 ∧ 1 ≤ bits 16 4 ∧ bits 16 4 ≤ 12 ∧ bits 0 11 = 0
        (∀ r : RateCode, right → r.val = bits 20 3 → d.take w = { d with mode := .assemble {
          place := .map 0, sum := 0x2B6E51 + w.extractLsb' 0 23, rate := r, channels := bits 16 4, hasMetadata := w.getLsbD 15,
          sequence := bits 11 4, roles := [], level := none, centreFold := none, surroundFold := none, points := [], ignored := 0,
          blocks := [], samples := [] } }) ∧
        (¬ right → d.take w = if w = 0x2B6E51 then d else { d with mode := .scan })) ∧
      (d.mode = .expect → d.state ≠ .confirm → d.take w = if w = 0x2B6E51 then { d with mode := .assemble .begin } else d.reject .framing) ∧
      (d.mode = .assemble a → d.take w = match a.take w with
        | .more a' => { d with mode := .assemble a' }
        | .rejected c => d.reject c
        | .verified a' => d.verify a')) ∧
    (d.state = .locked ∨ d.state = .hold →
      (d.bad < 3 → d.reject cause = { d with
        state := .hold, bad := d.bad + 1, lastCause := cause, mode := .scan,
        counters := { d.counters with rejected := count16 d.counters.rejected } }) ∧
      (3 ≤ d.bad → d.reject cause = { d with
        state := .search, bad := 0, lastCause := cause, mode := .scan, confirm := none, ready := none, playing := none, clock := false,
        playPos := 0, header := none, metadata := none, chain := none,
        counters := { d.counters with
          rejected := count16 d.counters.rejected, syncLosses := count16 d.counters.syncLosses } }))

/-- A verified frame's gains: its entry gain is the exit gain of the frame before it in the chain, 0 for the first; at a position the gain is that
of the last point at or before it, else the entry gain; the exit gain is that of the last point, else the entry gain (R48). Its levels are its own
or those of the frame before it in the chain, else 0 and −6, and its points its own, none when their positions do not rise strictly (R46, R47).
The program gain of a decoder at a position is the level of the current metadata, with dynamic gain ON plus the playing frame's gain at the
position, in a span of zeros the gain in force at the end of the last span (R49, R54); without metadata the model writes 0. The
samples at a position are those of the playing frame's blocks in map order; in a span of zeros there are none, and each counts as 0 (R58). The model's choices: the program gain in a
span of zeros (log 36, deduced), and that of a decoder without metadata, which plays nothing (log 36). -/
def Obligations.DynamicGainOfFrame : Prop :=
  ∀ (a : Assembly) (chain : Option Carry),
    let f := a.frame chain
    f.entryGain = chain.elim 0 (·.exitGain) ∧ f.exitGain = (f.points.getLast?.map (·.gain)).getD f.entryGain ∧
    ∀ p : Nat,
      ((∀ q ∈ f.points, p < q.position) → gainAt f.entryGain f.points p = f.entryGain) ∧
      (∀ (before after : List GainPoint) (q : GainPoint), f.points = before ++ q :: after → q.position ≤ p →
        (∀ y ∈ after, p < y.position) → gainAt f.entryGain f.points p = q.gain) ∧
    f.points = (if a.points.Pairwise fun p q => p.position < q.position then a.points else []) ∧
    f.level = a.level.getD (chain.elim 0 (·.level)) ∧ f.centreFold = a.centreFold.getD (chain.elim (-6) (·.centreFold)) ∧
    f.surroundFold = a.surroundFold.getD (chain.elim (-6) (·.surroundFold)) ∧ f.samples = a.blocks.reverse ∧
    ∀ (d : Decoder) (dynamic : Bool),
      (d.metadata = none → d.programGain dynamic p = 0) ∧
      (∀ m, d.metadata = some m →
        d.programGain false p = m.level ∧
        (∀ g : Frame, d.playing = some g → d.programGain true p = m.level + gainAt g.entryGain g.points p) ∧
        (d.playing = none → d.programGain true p = m.level + m.endGain)) ∧
      (∀ g : Frame, d.playing = some g → d.samplesAt p = g.samples.map fun block => block.getD p 0) ∧
      (d.playing = none → ∀ i : Nat, (d.samplesAt p).getD i 0 = 0)

/-- A span boundary of a decoder whose play clock runs (R54, R55): a ready frame becomes the playing frame, its metadata the current metadata
beside the gain in force at the end of the span that ends, its map that of the current header; with no frame ready a span of zeros plays, which a
LOCKED decoder counts as a slip. Every RUNNING user begins the span at position 0 and a block with it; another map of the same channel count
becomes its map, and another map or another fold level has its matrix derived again (R95). Nothing else changes. A frame with another channel
count takes each RUNNING user whose map has another length through ACQUIRING back to RUNNING within the event, whether the decoder is LOCKED or in
HOLD (R21, R55; for HOLD deduced, log 37): it takes rate and map of the current header, keeps its decoder, has a new allocation, empty delay lines,
the matrix of the new map and its first block begun, and its slots start anew (R20, R63, R66, R75, R76, R95, R103, R106, R111); the slots of
the zones that do not restart stay. The model's choices: a boundary acts whenever the play clock runs, and takes every RUNNING user from any position
to position 0 with a block boundary due (logs 12 and 36); the end gain that a span of zeros leaves is that of the span before it (log 36,
deduced); users that restart take what the pool has left by then, in order of their numbers (log 53).
-/
def Obligations.SpanBoundaryPlaysReadyFrame : Prop :=
  ∀ (s : State) (d : DecoderId), (s.decoder d).clock = true →
    let x := s.decoder d
    let gain : Int := match x.playing with
      | some f => f.exitGain
      | none => x.metadata.elim 0 (·.endGain)
    let user := fun (y : Zone) => y.decoder == some d && y.state == .running
    let begun := fun (y : Zone) => { y with spanPos := 0, blockPos := y.blockPos.map fun _ => 32 }
    let next := fun (f : Frame) (h : Header) => { x with
      playing := some f, ready := none, playPos := 0, header := some { h with map := f.header.map },
      metadata := some {
        level := f.level, centreFold := f.centreFold, surroundFold := f.surroundFold, points := f.points, endGain := gain } }
    (∀ f h, x.ready = some f → x.header = some h →
      (h.map = f.header.map ∨ ∀ z : ZoneId, user (s.zone z) = true → (s.zone z).map.map (·.length) = some f.header.map.length) →
      let folds := x.metadata.map (fun m => (m.centreFold, m.surroundFold)) != some (f.centreFold, f.surroundFold)
      ∃ t, exec (.spanBoundary d) s = .next t ∧ Noted { s with
        decoders := s.decoders.set d (next f h),
        zones := s.zones.map fun y => if user y then { begun y with
          map := if h.map = f.header.map then y.map else some f.header.map,
          deriveDue := y.deriveDue || folds || h.map != f.header.map } else y } t) ∧
    (x.ready = none → ∃ t, exec (.spanBoundary d) s = .next t ∧ Noted { s with
      decoders := s.decoders.set d { x with
        playing := none, playPos := 0, metadata := x.metadata.map (fun m => { m with endGain := gain }),
        counters := { x.counters with slips := if x.state = .locked then count16 x.counters.slips else x.counters.slips } },
      zones := s.zones.map fun y => if user y then begun y else y } t) ∧
    (∀ f h, x.ready = some f → x.header = some h → h.map ≠ f.header.map → ∃ t, exec (.spanBoundary d) s = .next t ∧
      let n := f.header.map.length
      let restarts := fun (y : Zone) => user y = true ∧ y.map.map (·.length) ≠ some n
      t.decoders = s.decoders.set d (next f h) ∧ Replayed s t ∧
      (∀ z : ZoneId, user (s.zone z) = false → t.zone z = s.zone z) ∧
      (∀ z : ZoneId, user (s.zone z) = true → ¬ restarts (s.zone z) →
        t.zone z = { begun (s.zone z) with map := some f.header.map, deriveDue := true }) ∧
      (∀ (i : SlotId), (∀ a, (s.slot i).assigned = some a → ¬ restarts (s.zone a.zone)) → t.slot i = s.slot i) ∧
      (∀ (z : ZoneId) (e : SourceId), restarts (s.zone z) → (s.zone z).source = some e →
        let u := s.zone z
        let y := t.zone z
        let others := ((allZones.filter (· ≠ z)).map fun o => if o < z then (t.zone o).allocation else (s.zone o).allocation).sum
        let req := (min 250 (u.lipsync + (s.source e).offset) * Config.rateHz h.rate + 500) / 1000
        y = { u with
          reason := none, rate := some h.rate, map := some f.header.map, hold := none, rampOut := false, blockPos := some 0, spanPos := 0,
          lipsyncDue := false, deriveDue := false, highDue := false, lowDue := false, stale := false,
          active := { volume := u.volume, dynamicGain := u.dynamicGain, sourceTrim := (s.source e).trim, layout := u.layout,
                      high := u.high, low := u.low },
          matrix := some (deriveMatrix u f.header.map f.centreFold f.surroundFold), lines := List.replicate n [],
          delay := y.delay, allocation := n * y.delay, delayClamped := y.delayClamped } ∧
        (n * req ≤ 172544 - others → y.delay = req ∧ y.delayClamped = u.delayClamped) ∧
        (172544 - others < n * req → y.delay = (172544 - others) / n ∧ y.delayClamped = true) ∧
        ((∀ o : ZoneId, restarts (s.zone o) → o = z) → SlotsStarted s t z h.rate true true)))

/-! ## The render engine (04, 05) -/

/-- The level stage rounds half toward plus infinity: the result is the floor of acc × M[r] plus half of 2^s over 2^s, with k = 24 − T,
q = k div 12, r = k mod 12, s = 26 + q; the gains of the six levels of the table, and the two halves it names. -/
def Obligations.LevelRounding : Prop :=
  (∀ acc t : Int, -192 ≤ t → t ≤ 24 →
    let k := (24 - t).toNat
    let s := 26 + k / 12
    let y := levelScale acc t
    y * 2 ^ s ≤ acc * (Config.mantissa.getD (k % 12) 0 : Nat) + 2 ^ (s - 1) ∧
      acc * (Config.mantissa.getD (k % 12) 0 : Nat) + 2 ^ (s - 1) < (y + 1) * 2 ^ s) ∧
  (∀ x : Int, levelScale (16384 * x) 24 = 4 * x ∧ levelScale (16384 * x) 12 = 2 * x ∧ levelScale (16384 * x) 0 = x ∧
    levelScale (16384 * (16384 * x)) (-6) = 11585 * x ∧ levelScale (16384 * (2 * x)) (-12) = x ∧
    levelScale (16384 * (65536 * x)) (-192) = x) ∧
  levelScale (16384 * 5) (-12) = 3 ∧ levelScale (16384 * (-5)) (-12) = -2

/-- The render engine's other arithmetic. Both conversions of a level round down and agree with the table of R62 (R62); a requested delay
and a speaker delay are the nearest whole numbers of samples, a half going up (R65, R111); a crossover sum is rounded half toward plus
infinity (R74); the ramp scales by g / 32 toward zero (R77); a delay line of d samples gives out the value that entered d sample periods
before, zeros until then (R68, R76). -/
def Obligations.RenderArithmetic : Prop :=
  (∀ s : Nat, let m := Config.mantissa.getD (s % 12) 0
    levelCoef s * 2 ^ (s / 12) ≤ m ∧ m < (levelCoef s + 1) * 2 ^ (s / 12) ∧
      limitOf s * 2 ^ (14 + s / 12) ≤ 8388607 * m ∧ 8388607 * m < (limitOf s + 1) * 2 ^ (14 + s / 12)) ∧
  ([0, 6, 12, 24, 36, 48, 72].map levelCoef = [16384, 11585, 8192, 4096, 2048, 1024, 256]) ∧
  ([0, 6, 12, 24, 36, 48, 72].map limitOf = [8388607, 5931519, 4194303, 2097151, 1048575, 524287, 131071]) ∧
  (∀ lipsync offset fs : Nat, let ms := min 250 (lipsync + offset)
    2 * ms * fs < 2000 * requestedDelay lipsync offset fs + 1000 ∧ 2000 * requestedDelay lipsync offset fs ≤ 2 * ms * fs + 1000) ∧
  (∀ d fs : Nat, 2 * d * fs < 68600 * speakerDelay d fs + 34300 ∧ 68600 * speakerDelay d fs ≤ 2 * d * fs + 34300) ∧
  (∀ w : Int, w < (xoverRound w) * 2 ^ 30 + 2 ^ 29 ∧ (xoverRound w) * 2 ^ 30 ≤ w + 2 ^ 29) ∧
  (∀ (v : Int) (g : Nat), g ≤ 32 → rampScale (-v) g = -rampScale v g ∧ rampScale v 32 = v ∧ rampScale v 0 = 0 ∧
    (0 ≤ v → rampScale v g * 32 ≤ v * g ∧ v * g < (rampScale v g + 1) * 32)) ∧
  (∀ (d : Nat) (entered : List Int) (x : Int),
    (delayStep d (entered.foldl (fun line y => (delayStep d line y).2) []) x).1 = (x :: entered.reverse).getD d 0)

/-- What the lip-sync pool grants (R65, R66): the delay asked for when it fits what the two other zones leave, else the longest delay that fits,
with the clamped flag set; the allocation is the channel count times the delay, the lines are filled with zeros when they are new or the delay
differs and kept otherwise; the sum of the three allocations stays within the pool. So it is at a zone's entry to RUNNING, shown for a power-on
with a PCM source, and at the block boundary of a zone whose lip-sync has changed; without that the boundary leaves delay and allocation as they
are (R20, R67). When a block boundary is due is the model's choice (log 12). -/
def Obligations.PoolGrantsWhatFits : Prop :=
  (∀ (s : State) (z : ZoneId) (fresh : Bool) (e : SourceId) (r : RateCode) (map : List Role),
    (s.zone z).source = some e → (s.zone z).rate = some r → (s.zone z).map = some map → map ≠ [] → PoolBound s →
    let x := s.zone z
    let others := (s.zone 0).allocation + (s.zone 1).allocation + (s.zone 2).allocation - x.allocation
    let req := (min 250 (x.lipsync + (s.source e).offset) * Config.rateHz r + 500) / 1000
    let t := s.recompute z fresh
    let y := t.zone z
    y.allocation = map.length * y.delay ∧ others + y.allocation ≤ 172544 ∧ PoolBound t ∧
    (others + map.length * req ≤ 172544 → y.delay = req ∧ y.delayClamped = x.delayClamped) ∧
    (172544 < others + map.length * req → y.delayClamped = true ∧ y.delay < req ∧ 172544 < others + map.length * (y.delay + 1)) ∧
    y.lines = (if fresh = true ∨ y.delay ≠ x.delay then List.replicate map.length [] else x.lines) ∧
    (∀ z', z' ≠ z → t.zone z' = s.zone z') ∧ Replayed s t) ∧
  (∀ (s : State) (c : Command) (z : ZoneId) (e : SourceId) (r : RateCode), Heads s c → c.kind = 0x20 → c.payload = [byteOf z, 0] →
    (s.zone z).state = .standby → (s.zone z).source = some e → (s.zone z).decoder = none → (s.source e).enabled = true →
    (s.port (s.source e).port).state = .locked → (s.port (s.source e).port).content = .pcm → (s.port (s.source e).port).rate = some r →
    let n := (s.source e).map.length
    let g := grantDelay (s.poolAvail z) n (requestedDelay (s.zone z).lipsync (s.source e).offset (Config.rateHz r))
    ∃ t, exec .zonePower s = .next t ∧ (t.zone z).state = .running ∧ (t.zone z).delay = g.1 ∧ (t.zone z).allocation = n * g.1 ∧
      (t.zone z).delayClamped = ((s.zone z).delayClamped || g.2) ∧ (t.zone z).lines = List.replicate n []) ∧
  (∀ (s : State) (z : ZoneId), (s.zone z).state = .running → (s.zone z).blockPos = some 32 →
    ((s.zone z).decoder = none ∨ (s.zone z).spanPos ≠ 256) →
    let y := if (s.zone z).lipsyncDue then (s.recompute z false).zone z else s.zone z
    ∃ t, exec (.blockBoundary z) s = .next t ∧ (t.zone z).delay = y.delay ∧ (t.zone z).allocation = y.allocation ∧
      (t.zone z).lines = y.lines ∧ (t.zone z).delayClamped = y.delayClamped)

/-- The matrix in force (R88 to R90, R92, R93, R101). With the mode CUSTOM and the program's map stored, it is the stored rows whose role the
layout has; else the default derivation: a row for each present role, in which a program channel of a present role has unity in its own row and 0
in every other; an absent centre goes to FL and FR with the centre fold level, an absent surround to its front with the surround fold level, an
absent back or top back through its surround, and on to the front when that is absent, too; an absent LFE to both fronts with 11585. With upmix
ON, a program of FL and FR puts 5793 of both into the centre row and half of its own side into a surround row. The LFE row of a layout with no
SMALL role takes no bass; with FL SMALL it takes half of FL; in every layout with an LFE it takes half of each positive entry of the SMALL rows,
saturated at 32767, upmix included. A zone takes this matrix at its entry to RUNNING, shown for a power-on with a PCM source and for one that
shares a LOCKED decoder, whose metadata give the fold levels (R91), and at a block boundary when a derivation is due; without that the boundary
keeps the matrix (R20, R95). When a block boundary is due is the model's choice (log 12). -/
def Obligations.MatrixInForce : Prop :=
  (∀ (x : Zone) (map : List Role) (c s : Int),
    let m := deriveMatrix x map c s
    let custom := x.matrixMode = .custom ∧ ∃ st, x.store = some st ∧ st.map = map
    let has := fun (r : Role) => x.layout[r] ≠ .absent
    let centre : Int := levelCoef (-c).toNat
    let surround : Int := levelCoef (-s).toNat
    let plain := ¬ custom ∧ (x.upmix = false ∨ (map ≠ [0, 1] ∧ map ≠ [1, 0]))
    let entry := fun (j : Role) (i : Nat) => (m.row j).getD i 0
    (∀ st, x.matrixMode = .custom → x.store = some st → st.map = map →
      m.custom = true ∧ m.rows = st.rows.filter (fun r => x.layout[r.role] != .absent)) ∧
    (¬ custom → m.custom = false ∧ (∀ j, (∃ row ∈ m.rows, row.role = j) ↔ has j) ∧ ∀ row ∈ m.rows, row.coefs.length = map.length) ∧
    (plain → has 0 → has 1 → ∀ (i : Nat) (r j : Role), map[i]? = some r → has j → j ≠ 3 →
      (has r → entry j i = if r = j then 16384 else 0) ∧
      (¬ has r → (r = 2 → entry j i = if j = 0 ∨ j = 1 then centre else 0) ∧
        (r = 3 → entry j i = if j = 0 ∨ j = 1 then 11585 else 0) ∧
        (r = 4 → entry j i = if j = 0 then surround else 0) ∧ (r = 5 → entry j i = if j = 1 then surround else 0) ∧
        (r = 6 → has 4 → entry j i = if j = 4 then 16384 else 0) ∧ (r = 7 → has 5 → entry j i = if j = 5 then 16384 else 0) ∧
        (r = 8 → entry j i = if j = 0 then 11585 else 0) ∧ (r = 9 → entry j i = if j = 1 then 11585 else 0) ∧
        (r = 10 → has 4 → entry j i = if j = 4 then 11585 else 0) ∧
        (r = 10 → ¬ has 4 → entry j i = if j = 0 then (11585 * surround + 8192) / 16384 else 0) ∧
        (r = 6 → ¬ has 4 → entry j i = if j = 0 then surround else 0) ∧ (r = 7 → ¬ has 5 → entry j i = if j = 1 then surround else 0) ∧
        (r = 11 → has 5 → entry j i = if j = 5 then 11585 else 0) ∧
        (r = 11 → ¬ has 5 → entry j i = if j = 1 then (11585 * surround + 8192) / 16384 else 0))) ∧
    (¬ custom → x.upmix = true → map = [0, 1] → has 0 → has 1 →
      (has 2 → m.row 2 = [5793, 5793]) ∧ (has 4 → m.row 4 = [8192, 0]) ∧ (has 5 → m.row 5 = [0, 8192]) ∧
      (has 6 → m.row 6 = [5793, 0]) ∧ (has 7 → m.row 7 = [0, 5793]) ∧ m.row 0 = [16384, 0] ∧ m.row 1 = [0, 16384]) ∧
    (plain → has 0 → has 1 → has 3 → ∀ (i : Nat) (r : Role), map[i]? = some r →
      ((∀ j : Role, j ≠ 3 → x.layout[j] ≠ .small) → entry 3 i = if r = 3 then 16384 else 0) ∧
      (x.layout[(0 : Role)] = .small → r = 0 → entry 3 i = 8192)) ∧
    (¬ custom → has 3 → ∀ (i : Nat) (r : Role), map[i]? = some r →
      let bass := fun (j : Role) => if j ≠ 3 ∧ x.layout[j] = .small ∧ 0 < entry j i then entry j i / 2 else 0
      entry 3 i = min 32767 ((if r = 3 then 16384 else 0) +
        (bass 0 + bass 1 + bass 2 + bass 4 + bass 5 + bass 6 + bass 7 + bass 8 + bass 9 + bass 10 + bass 11)))) ∧
  (∀ (s : State) (c : Command) (z : ZoneId) (e : SourceId), Heads s c → c.kind = 0x20 → c.payload = [byteOf z, 0] →
    (s.zone z).state = .standby → (s.zone z).source = some e → (s.zone z).decoder = none → (s.source e).enabled = true →
    (s.port (s.source e).port).state = .locked →
    let takes := fun (map : List Role) (centre surround : Int) => ∃ t, exec .zonePower s = .next t ∧ (t.zone z).state = .running ∧
      (t.zone z).matrix = some (deriveMatrix (s.zone z) map centre surround) ∧ (t.zone z).stale = false
    ((s.port (s.source e).port).content = .pcm → takes (s.source e).map (-6) (-6)) ∧
    (∀ d h m, (s.port (s.source e).port).content = .packed → s.decoderOn (s.source e).port = some d → (s.decoder d).state = .locked →
      (s.decoder d).header = some h → (s.decoder d).metadata = some m → takes h.map m.centreFold m.surroundFold)) ∧
  (∀ (s : State) (z : ZoneId) (map : List Role), (s.zone z).state = .running → (s.zone z).blockPos = some 32 →
    ((s.zone z).decoder = none ∨ (s.zone z).spanPos ≠ 256) → (s.zone z).map = some map →
    let folds : Int × Int := match (s.zone z).decoder with
      | none => (-6, -6)
      | some d => (s.decoder d).metadata.elim (-6, -6) fun m => (m.centreFold, m.surroundFold)
    ∃ t, exec (.blockBoundary z) s = .next t ∧ (t.zone z).matrix =
      if (s.zone z).deriveDue then some (deriveMatrix (s.zone z) map folds.1 folds.2) else (s.zone z).matrix)

/-- One sample period of a slot (R70, R72 to R74, R76, R77, R80, R81): the output word never leaves ±Lim and Lim never exceeds full scale; a slot
that is SILENT or SHUT sends 0, and no limit test is made on it; the ramp level moves one step toward its target; the value that leaves the level
stage, passed through the section in use, enters the delay line, and the one it gives out is scaled by the new ramp level, truncated toward zero,
and clamped to the limit; with g at 32 and a bypassed section and no delay the word is the level stage's value, clamped; a section that is in use
keeps its outputs in the working range; OVERFLOW is set when the level stage or the section saturates and stays as it was when neither does; the
flags only rise, the counter rises with each clamped word; nothing else of the record changes. -/
def Obligations.SlotSampleBounds : Prop :=
  ∀ (x : Slot) (a : Active) (acc gain : Int),
    let y := x.sample a acc gain
    let lim := limitOf (min 72 (x.activeLimit + x.reduction))
    let t := max (-192) (min 24 (a.volume + x.activeTrim + a.sourceTrim + gain))
    let level := max (-(2 ^ 31)) (min (2 ^ 31 - 1) (levelScale acc t))
    lim ≤ 8388607 ∧ -(lim : Int) ≤ y.word ∧ y.word ≤ lim ∧
    (x.state = .silent ∨ x.state = .shut → y.word = 0 ∧ y.limited = x.limited ∧ y.clips = x.clips) ∧
    (x.g = x.target → y.g = x.g) ∧ (x.g < x.target → y.g = x.g + 1) ∧ (x.target < x.g → y.g + 1 = x.g) ∧
    (x.activeSet = .bypass → y.u1 = x.u1 ∧ y.u2 = x.u2 ∧ y.y1 = x.y1 ∧ y.y2 = x.y2) ∧
    (∀ c, (x.activeSet = .high ∧ c = a.high) ∨ (x.activeSet = .low ∧ c = a.low) →
      y.u2 = x.u1 ∧ y.y2 = x.y1 ∧ -(2 ^ 31) ≤ y.y1 ∧ y.y1 < 2 ^ 31 ∧
      let w := c.b0 * y.u1 + c.b1 * x.u1 + c.b2 * x.u2 - c.a1 * x.y1 - c.a2 * x.y2
      y.y1 = max (-(2 ^ 31)) (min (2 ^ 31 - 1) ((w + 2 ^ 29) / 2 ^ 30)) ∧ (y.y1 ≠ (w + 2 ^ 29) / 2 ^ 30 → y.overflow = true) ∧
      (level = levelScale acc t → y.y1 = (w + 2 ^ 29) / 2 ^ 30 → y.overflow = x.overflow)) ∧
    (let out := if x.activeSet = .bypass then level else y.y1
     let given := (out :: x.line).getD x.delay 0
     let ramped := (given * y.g).tdiv 32
     (x.activeSet ≠ .bypass → y.u1 = level) ∧ y.line = (out :: x.line).take x.delay ∧
     (level ≠ levelScale acc t → y.overflow = true) ∧
     (x.activeSet = .bypass → level = levelScale acc t → y.overflow = x.overflow) ∧
     (x.state = .active ∨ x.state = .limited → y.word = max (-(lim : Int)) (min lim ramped) ∧
       (y.word ≠ ramped → y.limited = true ∧ y.clips = min 65535 (x.clips + 1)) ∧
       (y.word = ramped → y.limited = x.limited ∧ y.clips = x.clips))) ∧
    (x.state = .active ∨ x.state = .limited → x.activeSet = .bypass → x.delay = 0 → x.g = 32 → x.target = 32 →
      let v := max (-(2 ^ 31)) (min (2 ^ 31 - 1) (levelScale acc t))
      y.word = max (-(lim : Int)) (min lim v) ∧
      (y.word ≠ v → y.limited = true ∧ y.clips = min 65535 (x.clips + 1)) ∧
      (y.word = v → y.limited = x.limited ∧ y.clips = x.clips)) ∧
    (x.overflow = true → y.overflow = true) ∧ (x.limited = true → y.limited = true) ∧
    y = { x with u1 := y.u1, u2 := y.u2, y1 := y.y1, y2 := y.y2, line := y.line, g := y.g, word := y.word,
                 overflow := y.overflow, limited := y.limited, clips := y.clips }

/-- One sample period of a zone (R63, R64, R68, R69). A RUNNING zone playing PCM converts its port's words at its source's width, one playing from
a decoder takes the decoder's samples at its span position with the decoder's program gain; the samples pass the delay lines, each slot of the
zone takes the exact sum of coefficient times sample over its role's row, and the block count moves on. A zone that has left RUNNING sends zero
sums to its slots. Nothing else changes. The model's choices: a zone inside a span before its first block runs sample periods (log 12), with the
matrix of its entry (log 59), and the decoder keeps the furthest position a user has reached (log 12); the program gain in a span of zeros is that
of log 36. A lane sends one word for each position it carries: an amplifier lane those of channels 1 to the module's count while it is PRESENT,
else none, a line lane its two outputs; a position that is the destination of one slot carries that slot's word, one of no slot 0 (R105, R106). -/
def Obligations.SamplePeriodOfZone : Prop :=
  (∀ (s : State) (z : ZoneId) (words : List InputWord),
    let x := s.zone z
    let slotsAfter := fun (acc : Role → Int) (gain : Int) => s.slots.map fun y =>
      if y.assigned.any (fun a => a.zone == z) then y.sample x.active (acc ((y.assigned.map (·.role)).getD 0)) gain else y
    let row := fun (out : List Int) (j : Role) => rowSum ((x.matrix.elim [] (fun m => m.row j))) out
    let out := fun (taken : List Int) => (x.lines.zip taken).map fun q => (q.2 :: q.1).getD x.delay 0
    let lines := fun (taken : List Int) => (x.lines.zip taken).map fun q => (q.2 :: q.1).take x.delay
    (∀ e k map, x.state = .running → x.decoder = none → x.source = some e → x.map = some map → words.length = map.length →
      x.blockPos = some k → k < 32 →
      let w := (s.source e).width
      let taken := words.map fun v => ((takenWord v).toInt / 2 ^ (24 - w)) * 2 ^ (24 - w)
      let zone := { x with blockPos := some (k + 1), lines := lines taken }
      ∃ t, exec (.zoneSamplePeriod z words) s = .next t ∧
        Noted { s with slots := slotsAfter (row (out taken)) 0, zones := s.zones.set z zone } t) ∧
    (∀ d map, x.state = .running → x.decoder = some d → x.map = some map → x.spanPos < 256 →
      ((∃ k, x.blockPos = some k ∧ k < 32) ∨ (x.blockPos = none ∧ x.spanPos % 32 ≠ 0)) →
      let taken := (List.range map.length).map fun i => ((s.decoder d).samplesAt x.spanPos).getD i 0 * 16
      let gain := (s.decoder d).programGain x.active.dynamicGain x.spanPos
      let zone := { x with blockPos := x.blockPos.map (· + 1), lines := lines taken, spanPos := x.spanPos + 1 }
      let decoder := { s.decoder d with playPos := max (s.decoder d).playPos (x.spanPos + 1) }
      ∃ t, exec (.zoneSamplePeriod z words) s = .next t ∧
        Noted { s with
          slots := slotsAfter (row (out taken)) gain, zones := s.zones.set z zone, decoders := s.decoders.set d decoder } t) ∧
    (∀ k, x.state ≠ .running → x.rampOut = true → x.blockPos = some k → k < 32 →
      let zone := { x with blockPos := some (k + 1) }
      ∃ t, exec (.zoneSamplePeriod z words) s = .next t ∧
        Noted { s with slots := slotsAfter (fun _ => 0) 0, zones := s.zones.set z zone } t)) ∧
  (∀ s : State,
    (∀ id : Identity, s.presentEntry id = none → s.laneWords (.amp id) = []) ∧
    (∀ (id : Identity) (k : EntryId) (e : Entry), s.presentEntry id = some (k, e) →
      (s.laneWords (.amp id)).length = e.faults.length ∧
      ∀ ch, 1 ≤ ch → ch ≤ e.faults.length → (s.laneWords (.amp id))[ch - 1]? = some (s.positionWord (.amp id ch))) ∧
    (∀ l : Fin 6, s.laneWords (.line ⟨l.val / 2, by omega⟩) = [
      s.positionWord (.line ⟨2 * (l.val / 2), by omega⟩), s.positionWord (.line ⟨2 * (l.val / 2) + 1, by omega⟩)]) ∧
    (∀ d : Destination, (∀ i a, (s.slot i).assigned = some a → a.dest ≠ d) → s.positionWord d = 0) ∧
    (∀ (d : Destination) (i : SlotId) (a : Assignment), LanesRight s → (s.slot i).assigned = some a → a.dest = d →
      s.positionWord d = (s.slot i).word)) ∧
  (∀ coefs xs : List Int, rowSum coefs xs = ((coefs.zip xs).map fun q => q.1 * q.2).sum)

/-- A block boundary of a RUNNING zone (R63, R78): volume, dynamic gain, source trim, layout and crossover sets are read for the block, each
slot of the zone takes its trim, its limit, its set and its ramp target, 32 exactly when the zone is not muted and the slot is ACTIVE or
LIMITED; its crossover state is zeroed at the first block after an entry to RUNNING, when its set changes and when a new set applies to it,
and kept otherwise (R75, R96). A slot whose distance waits has its speaker delay computed anew at the zone's rate, its line zeroed when the
delay differs; a slot whose distance does not wait keeps delay and line (R111, R76). A lip-sync that waits has delay and allocation
recomputed from what the two other zones leave (R66, R67), a derivation that waits has the matrix derived from the program map and the fold
levels (R91, R95). What waited is done with: no derivation, recomputation, new set or distance waits after it. Nothing else changes: not the
zone's state, rate, map and span position, no slot's state, no other zone and none of its slots, no decoder, no lane. A RUNNING zone has a
source, a rate and a map; without one of them the model leaves what needs it waiting. In a zone that ramps out every target becomes 0, the
slot limits are taken and nothing else changes. A ramp-out ends when every slot of the zone has g at 0: the zone runs its stages no more,
each of its slots is decided again, SHUT when its channel is held muted and not missing, else SILENT, a slot that changes state has g,
target and output word at 0, and nothing else changes (R79, R103, R104). The model's choices: when a block boundary is due, a zone that
waits inside a span for its first block among it (log 12); a slot of role LFE takes the low-pass set in a layout without an LFE, too (log
60). -/
def Obligations.BlockBoundaryAndRampOut : Prop :=
  ∀ (s : State) (z : ZoneId),
    let x := s.zone z
    let mine := fun (y : Slot) => y.assigned.any (fun a => a.zone == z) = true
    (x.state = .running → (x.blockPos = some 32 ∧ (x.decoder = none ∨ x.spanPos ≠ 256)) ∨
        (x.blockPos = none ∧ x.decoder ≠ none ∧ x.spanPos % 32 = 0 ∧ x.spanPos < 256) →
      let active : Active := {
        volume := x.volume, dynamicGain := x.dynamicGain, sourceTrim := x.source.elim 0 fun e => (s.source e).trim, layout := x.layout,
        high := x.high, low := x.low }
      let granted : Zone := match x.source, x.rate, x.map with
        | some e, some r, some map =>
          let available := 172544 - ((allZones.filter (· ≠ z)).map fun o => (s.zone o).allocation).sum
          let req := (min 250 (x.lipsync + (s.source e).offset) * Config.rateHz r + 500) / 1000
          let delay := if map.length * req ≤ available then req else available / map.length
          if x.lipsyncDue then { x with
            lipsyncDue := false, delay := delay, allocation := map.length * delay,
            delayClamped := x.delayClamped || decide (available < map.length * req),
            lines := if delay = x.delay then x.lines else List.replicate map.length [] } else x
        | _, _, _ => x
      let folds : Int × Int := match x.decoder with
        | none => (-6, -6)
        | some d => (s.decoder d).metadata.elim (-6, -6) fun m => (m.centreFold, m.surroundFold)
      let derived : Zone := match x.map with
        | some map => if x.deriveDue then { granted with
            deriveDue := false, stale := false, matrix := some (deriveMatrix x map folds.1 folds.2) } else granted
        | none => granted
      let heard := fun (y : Slot) => match x.rate with
        | some r =>
          let delay := (y.distance * Config.rateHz r + 17150) / 34300
          if y.distanceDue then { y with distanceDue := false, delay := delay, line := if delay = y.delay then y.line else [] } else y
        | none => y
      let begun := fun (a : Assignment) (y : Slot) =>
        let set : XoverUse := if a.role = 3 then .low else if x.layout[a.role] = .small then .high else .bypass
        let zeroed := x.blockPos = none ∨ set ≠ y.activeSet ∨ (set = .high ∧ x.highDue = true) ∨ (set = .low ∧ x.lowDue = true)
        { heard y with
          u1 := if zeroed then 0 else y.u1, u2 := if zeroed then 0 else y.u2, y1 := if zeroed then 0 else y.y1, y2 := if zeroed then 0 else y.y2,
          activeTrim := y.trim, activeLimit := y.limit, activeSet := set,
          target := if x.mute = false ∧ (y.state = .active ∨ y.state = .limited) then 32 else 0 }
      ∃ t, exec (.blockBoundary z) s = .next t ∧ Noted { s with
        zones := s.zones.set z { derived with active := active, blockPos := some 0, highDue := false, lowDue := false },
        slots := s.slots.map fun y => y.assigned.elim y fun a => if a.zone = z then begun a y else y } t) ∧
    (x.state ≠ .running → x.rampOut = true → x.blockPos = some 32 →
      let zone := { x with blockPos := some 0 }
      ∃ t, exec (.blockBoundary z) s = .next t ∧ Noted { s with
        zones := s.zones.set z zone,
        slots := s.slots.map fun y => if y.assigned.any (fun a => a.zone == z) then { y with target := 0, activeLimit := y.limit } else y } t) ∧
    (x.state ≠ .running → x.rampOut = true → (∀ i, mine (s.slot i) → (s.slot i).g = 0) →
      let ended := fun (a : Assignment) (y : Slot) =>
        let state : SlotState := if s.missing a.dest = none ∧ (s.protOf a.dest).1 = true then .shut else .silent
        if y.state = state then y else { y with state := state, g := 0, target := 0, word := 0 }
      ∃ t, exec (.rampOutEnd z) s = .next t ∧ Noted { s with
        zones := s.zones.set z { x with rampOut := false, blockPos := none },
        slots := s.slots.map fun y => y.assigned.elim y fun a => if a.zone = z then ended a y else y } t)

/-! ## Output slots (06) -/

/-- SLOT.ASSIGN and SLOT.RELEASE (R107 to R110). A slot above 15 is refused with BAD_VALUE in both, and so is an assignment with a zone
above 2, a role above 11, a kind that is neither AMP nor LINE, a channel 0, above 8 or above the count of the entry that carries the
identity, or a line output above 5, before anything else is looked at (R108, step 1). A destination another slot has, or a lane on which
another slot of another zone lies, is refused with CONFLICT. Otherwise zone, role and destination are written, the flags cleared, the
counter and g zeroed, the crossover state and the delay line zeroed, the reduction taken from the destination, the speaker delay computed
when the zone is RUNNING or HELD, the state decided by the five checks; distance, trim and limit stay; the lane takes the rate of a RUNNING
or HELD zone. A release gives the slot its reset values but for flags and counter. Each module whose enable mask changes, the one left
first, has a WRITE_ENABLE with its new mask requested, which reaches a PRESENT module's queue or, from an IDLE link, is sent. Nothing else
changes: no other slot, no other lane, nothing of the link but what that request does; the slot joins the changed-slot set and SLOT is
raised (R117). The enable mask holds the bit of an assigned channel beyond the module's channel count, too (R107, log 48). The model's
choices: output word 0, trim, limit and set in force at once (log 34); the set of a slot of role LFE (log 60); the requests of both modules
are queued before an IDLE link takes one (log 39); the reply stands before the notices (log 4). -/
def Obligations.SlotAssignAndRelease : Prop :=
  (∀ (s : State) (id : Identity) (ch : Nat), 1 ≤ ch → ch ≤ 8 →
    ((s.enableMask id).getLsbD (ch - 1) = true ↔ ∃ j a, (s.slot j).assigned = some a ∧ a.dest = .amp id ch)) ∧
  (∀ (s : State) (c : Command), Heads s c →
    (∀ (slot zone role kind ch line : Byte) (id : List Byte), c.kind = 0x40 → id.length = 6 →
      c.payload = slot :: zone :: role :: kind :: (id ++ [ch, line]) →
      15 < slot.toNat ∨ 2 < zone.toNat ∨ 11 < role.toNat ∨ 1 < kind.toNat ∨
        (kind = 0 ∧ (ch.toNat = 0 ∨ 8 < ch.toNat ∨
          ∃ k e, s.entryOf (idField c.payload 4) = some k ∧ s.entry k = some e ∧ e.faults.length < ch.toNat)) ∨
        (kind = 1 ∧ 5 < line.toNat) →
      exec .slotAssign s = .next (answered s c .badValue []).settleLink) ∧
    (∀ slot : Byte, c.kind = 0x41 → c.payload = [slot] → 15 < slot.toNat →
      exec .slotRelease s = .next (answered s c .badValue []).settleLink)) ∧
  ∀ (s : State) (c : Command) (i : SlotId), Calm s → Heads s c →
    let module := fun (a : Option Assignment) => a.bind fun a => match a.dest with
      | .amp id _ => some id
      | .line _ => none
    let ask := fun (y : State) (id : Option Identity) => match id with
      | none => y
      | some id => if y.enableMask id = s.enableMask id then y else y.request id .writeEnable (y.enableMask id)
    let asked := fun (y : State) (old new : Option Identity) => if old = new then ask y old else ask (ask y old) new
    let masks := fun (t : State) => ∀ id, (s.presentEntry id).isSome = true → t.enableMask id ≠ s.enableMask id →
      ∃ x, (x ∈ t.link.urgent ++ t.link.ordinary ++ t.link.marks ∨ (s.link.exchange = .idle ∧ t.link.exchange = .txn x false)) ∧
        x.identity = id ∧ x.kind = .writeEnable ∧ x.payload = t.enableMask id
    (∀ (z : ZoneId) (r : Role) (kind ch line : Byte) (id : List Byte) (d : Destination), c.kind = 0x40 → id.length = 6 →
      c.payload = byteOf i :: byteOf z :: byteOf r :: kind :: (id ++ [ch, line]) →
      ((kind = 0 ∧ 1 ≤ ch.toNat ∧ ch.toNat ≤ 8 ∧ d = .amp (idField c.payload 4) ch.toNat ∧
          ∀ k e, s.entryOf (idField c.payload 4) = some k → s.entry k = some e → ch.toNat ≤ e.faults.length) ∨
        (kind = 1 ∧ ∃ l : Fin 6, line = byteOf l ∧ d = .line l)) →
      let conflict := ∃ j a, j ≠ i ∧ (s.slot j).assigned = some a ∧ (a.dest = d ∨ (a.dest.lane = d.lane ∧ a.zone ≠ z))
      let x := s.slot i
      let zone := s.zone z
      let rate := if zone.state = .running ∨ zone.state = .held then zone.rate else none
      let reduction := (s.protOf d).2
      let state : SlotState :=
        if (s.missing d).isSome then .silent else if (s.protOf d).1 then .shut else if zone.state ≠ .running ∧ zone.rampOut = false then .silent
        else if 0 < reduction then .limited else .active
      (conflict → exec .slotAssign s = .next (answered s c .conflict []).settleLink) ∧
      (¬ conflict →
        let y : Slot := { x with
          assigned := some { zone := z, role := r, dest := d }, state := state, delay := rate.elim x.delay (fun r => (x.distance * Config.rateHz r + 17150) / 34300),
          reduction := reduction, u1 := 0, u2 := 0, y1 := 0, y2 := 0, line := [], g := 0, target := 0, overflow := false, limited := false,
          clips := 0, staged := .empty, activeTrim := x.trim, activeLimit := x.limit,
          activeSet := if r = 3 then .low else if zone.active.layout[r] = .small then .high else .bypass, distanceDue := false, word := 0 }
        let written : State := { answered s c .ok [] with slots := s.slots.set i y }
        let paced := rate.elim written fun q => written.setLaneRate d.lane q
        ∃ t, exec .slotAssign s = .next t ∧ t.slot i = y ∧ masks t ∧
          Noted (asked paced (module x.assigned) (module y.assigned)).kickLink t ∧
          Told .slot t ∧ (s.control.enabled[NoticeKind.slot.number] = false → Joined i.val s.changedSlots t.changedSlots) ∧
        (∀ q, rate = some q → s.ampRates.Pairwise (fun a b => a.1.toNat < b.1.toNat) → t.laneRate d.lane = q))) ∧
    (c.kind = 0x41 → c.payload = [byteOf i] →
      ((s.slot i).assigned = none → exec .slotRelease s = .next (answered s c .ok []).settleLink) ∧
      (∀ a, (s.slot i).assigned = some a →
        let y : Slot := { Slot.reset with overflow := (s.slot i).overflow, limited := (s.slot i).limited, clips := (s.slot i).clips }
        let written : State := { answered s c .ok [] with slots := s.slots.set i y }
        ∃ t, exec .slotRelease s = .next t ∧ t.slot i = y ∧ masks t ∧ Noted (ask written (module (some a))).kickLink t ∧
          Told .slot t ∧ (s.control.enabled[NoticeKind.slot.number] = false → Joined i.val s.changedSlots t.changedSlots)))

/-! ## The amplifier link (07) -/

/-- LINK.START, LINK.ENUM and LINK.RESET (R120 to R122). START writes the policy; from HELD it also releases every address and begins an
enumeration of origin START. ENUM is refused with NOT_NOW in HELD and while an enumeration of origin START or HOST is pending or in flight;
otherwise it keeps its reply, clears join pending, and waits, or begins at once when the link is IDLE. RESET changes nothing in HELD;
otherwise it answers a host's enumeration with ABORTED, empties table, queues, marks and protection records, and leaves every slot on an
amplifier channel SILENT with no reduction, its assignment, settings, flags, counter, delay and crossover state as they were; no other slot
changes, nothing of a zone or of another block, and of the command processor nothing but queue, reservation, replies and notices; the policy
and the last result stay (log 27). START from HELD and RESET raise LINK, RESET with every filled entry in the changed-entry set (R136);
RESET empties the PROTECT set and, where records were held, sets the all-removed mark and raises PROTECT (R151). The model's choices: a
RESET that finds no records leaves the PROTECT set and the all-removed mark as they are (log 32; R151 does not settle it), the last ASSIGN
and the last acknowledge are kept as outputs of the model (log 21), replies stand before the notices (log 4), the ABORTED reply of an
enumeration before RESET's own OK (log 50), the last temperature of every module dropped with its records (log 65), the broadcast release of
START without an exchange of its own (log 68). -/
def Obligations.LinkCommands : Prop :=
  ∀ (s : State) (c : Command), Calm s → Heads s c →
    let l := s.link
    (∀ b : Byte, c.kind = 0x50 → c.payload = [b] →
      (1 < b.toNat → exec .linkStart s = .next (answered s c .badValue []).settleLink) ∧
      (b.toNat ≤ 1 → l.exchange ≠ .held →
        exec .linkStart s = .next ({ answered s c .ok [] with link := { l with accept := b == 0 } } : State).settleLink) ∧
      (b.toNat ≤ 1 → l.exchange = .held →
        let run : EnumRun := { origin := .start, rounds := 0, assigned := 0, failed := 0 }
        ∃ t, exec .linkStart s = .next t ∧ Noted { answered s c .ok [] with
          link := { l with accept := b == 0, lastAssign := some (none, 0), exchange := .call, enumPending := none, enumRun := some run } } t ∧
          Told .link t)) ∧
    (c.kind = 0x51 →
      let busy := l.exchange = .held ∨ l.enumPending ≠ none ∨ ∃ r, l.enumRun = some r ∧ r.origin ≠ .join
      let held := { (popped s).control with longOps := s.control.longOps ++ [{ kind := .enumeration, command := 0x51, tag := c.tag }] }
      (busy → exec .linkEnum s = .next (answered s c .notNow []).settleLink) ∧
      (¬ busy → l.exchange ≠ .idle →
        exec .linkEnum s = .next { s with control := held, link := { l with enumPending := some .host, joinPending := false } }) ∧
      (¬ busy → l.exchange = .idle →
        let run : EnumRun := { origin := .host, rounds := 0, assigned := 0, failed := 0 }
        exec .linkEnum s = .next { s with
          control := held, link := { l with exchange := .call, enumPending := none, joinPending := false, enumRun := some run } })) ∧
    (c.kind = 0x52 →
      (l.exchange = .held → exec .linkReset s = .next (answered s c .ok [])) ∧
      (l.exchange ≠ .held → ∃ t, exec .linkReset s = .next t ∧
        t.link = { Link.reset with accept := l.accept, lastResult := l.lastResult, lastAssign := l.lastAssign, lastAck := l.lastAck, changed := t.link.changed } ∧
        (∀ k, t.protModule k = none) ∧ Told .link t ∧
        (s.control.enabled[NoticeKind.link.number] = false →
          ∀ n : Nat, n ∈ t.link.changed ↔ n ∈ l.changed ∨ ∃ k : EntryId, k.val = n ∧ s.entry k ≠ none) ∧
        ((∃ k, s.protModule k ≠ none) → Told .protect t ∧
          (s.control.enabled[NoticeKind.protect.number] = false → t.changedProt = [] ∧ t.allRemoved = true)) ∧
        ((∀ k, s.protModule k = none) → s.control.enabled[NoticeKind.protect.number] = false →
          t.changedProt = s.changedProt ∧ t.allRemoved = s.allRemoved) ∧
        (∀ i : SlotId, let x := s.slot i
          ((∃ a id ch, x.assigned = some a ∧ a.dest = .amp id ch) → t.slot i =
            if x.state = .silent then { x with reduction := 0 } else { x with reduction := 0, state := .silent, g := 0, target := 0, word := 0 }) ∧
          ((∀ a id ch, x.assigned = some a → a.dest ≠ .amp id ch) → t.slot i = x)) ∧
        hushed { t with link := s.link, prot := s.prot, slots := s.slots, control := { t.control with
          commands := s.control.commands, longOps := s.control.longOps } } = hushed s ∧
        t.control.commands = s.control.commands.tail ∧ t.control.longOps = s.control.longOps.filter (fun o => o.kind != .enumeration) ∧
        ∃ aborted notices, (∀ m ∈ notices, IsNotice m) ∧
          t.control.outgoing = s.control.outgoing ++ aborted ++ [{ kind := 0x80, tag := c.tag, payload := [0, 0x52] }] ++ notices ∧
          ((∀ o ∈ s.control.longOps, o.kind ≠ .enumeration) → aborted = []) ∧
          (∀ before o after, s.control.longOps = before ++ o :: after → o.kind = .enumeration → (∀ x ∈ before, x.kind ≠ .enumeration) →
            ∃ data, aborted = [{ kind := 0x80, tag := o.tag, payload := 7 :: o.command :: data }] ∧
              ∀ r, l.enumRun = some r → r.origin = .host → data = [BitVec.ofNat 8 r.assigned, BitVec.ofNat 8 r.failed])))

/-- How a transaction ends (R126, R128 to R130). A write acknowledged: the entry's miss count is 0, one more is completed, a window is due.
A first negative acknowledge repeats it. A second one, or a stall, adds a miss and puts the transaction back, unless a newer one of its
module and kind waits. The third miss makes the module ABSENT: its waiting transactions go, those of other modules stay (shown for the
ordinary queue where no mark is pending), its slots are SILENT, its channels that are not LATCHED are SHUT with cause LINK, and the address
is released once the line is free. A line still low after the first recovery is stuck; what its repeats do is in another statement
(ReadsPollsAndRecovery). The model's choices: a stalled transaction is charged within the stall's event (log 42), a failed WRITE_MUTE is put
back at the tail of the urgent queue (log 41). -/
def Obligations.TransactionOutcomes : Prop :=
  ∀ (s : State) (x : Txn) (again : Bool) (k : EntryId) (e : Entry), Calm s → s.link.exchange = .txn x again →
    s.presentEntry x.identity = some (k, e) →
    let l := s.link
    let missed := fun (counters : LinkCounters) =>
      ({ l with counters := counters, table := l.table.set k (some { e with misses := e.misses + 1 }) } : Link)
    let putBack := fun (q : Link) =>
      if l.urgent.any (fun y => x.identity == y.identity && x.kind == y.kind) || l.ordinary.any (fun y => x.identity == y.identity && x.kind == y.kind) ||
        l.marks.any (fun y => x.identity == y.identity && x.kind == y.kind) then q
      else if x.kind = .writeMute then { q with urgent := l.urgent ++ [x] }
      else if l.ordinary.length < 16 then { q with ordinary := l.ordinary ++ [x] } else { q with marks := l.marks ++ [x] }
    let nak := { l.counters with naks := count16 l.counters.naks }
    let stall := { l.counters with stalls := count16 l.counters.stalls }
    let absent := fun (t : State) =>
      Relinked s t ∧ Told .link t ∧ t.entry k = some { e with presence := .absent, misses := 3 } ∧
      (∀ y ∈ t.link.urgent ++ t.link.ordinary ++ t.link.marks, y.identity ≠ x.identity) ∧
      t.link.urgent = l.urgent.filter (fun y => y.identity != x.identity) ∧
      (l.marks = [] → t.link.ordinary = l.ordinary.filter (fun y => y.identity != x.identity) ∧ t.link.marks = []) ∧
      (∀ i a ch, (s.slot i).assigned = some a → a.dest = .amp x.identity ch → (t.slot i).state = .silent) ∧
      (∀ m, s.protModule k = some m → t.protModule k = some { m with records := m.records.map fun r =>
        if r.state = .latched then r else { r with state := .shut, cause := .link, muted := true, holdOff := none } })
    (∀ reply : List Byte, x.kind ≠ .readStatus → x.kind ≠ .readDesc →
      exec (.transactionComplete (.acknowledged reply)) s = .next { s with link := { l with
        exchange := .window, counters := { l.counters with completed := count16 l.counters.completed }, table := l.table.set k (some { e with misses := 0 }) } }) ∧
    (again = false → exec (.transactionComplete .notAcknowledged) s = .next { s with link := { l with exchange := .txn x true, counters := nak } }) ∧
    (e.misses < 2 →
      (again = true → exec (.transactionComplete .notAcknowledged) s = .next { s with link := { putBack (missed nak) with exchange := .window } }) ∧
      exec (.linkStall true) s = .next { s with link := { putBack (missed stall) with exchange := .window } } ∧
      ∃ t, exec (.linkStall false) s = .next t ∧ Noted { s with link := { putBack (missed stall) with exchange := .recovery none false, stuck := true } } t ∧ Told .link t) ∧
    (2 ≤ e.misses →
      (again = true → ∃ t, exec (.transactionComplete .notAcknowledged) s = .next t ∧ absent t ∧ t.link.exchange = .release x.identity) ∧
      (∃ t, exec (.linkStall true) s = .next t ∧ absent t ∧ t.link.exchange = .release x.identity) ∧
      ∃ t, exec (.linkStall false) s = .next t ∧ absent t ∧ t.link.exchange = .recovery (some x.identity) false ∧ t.link.stuck = true)

/-- Reads, polls, repeats of a recovery, and the release of an absent module's address (R129 to R133). An acknowledged READ_STATUS writes
its reply into the last status and hands what is new to the protection unit: the channels whose bit is 1 in the reply and 0 in the last
status, in the order TEMP_WARN, TEMP_SHUT, OVERCURRENT, DC_FAULT, and a change of the supply bit; slots and WRITE_MUTE follow as for a FAULT
request. An acknowledged READ_DESC writes its count, its channels' bits cut or filled up with 0; with another count the records are cut or
created alike, the module's slots decided again, and a WRITE_MUTE requested when a muted channel was removed (R133, R148). At 100 ms the
poll timer of a PRESENT module restarts and requests READ_STATUS, which an IDLE link sends at once; that of an ABSENT module does not run. A
repeat of the recovery after a stall in a round is in another statement (R123). The model's choices: the last ASSIGN is kept as an output
(log 21), a release owed to a stuck line is sent after the recovery and not repeated (log 31), an IDLE link takes its request at the end of
the event (log 39), an expiry row moves the clock to the later of now and its start plus limit (log 1), a repeat of the recovery by 2 ms
(log 1). -/
def Obligations.ReadsPollsAndRecovery : Prop :=
  (∀ (s : State) (x : Txn) (again : Bool) (k : EntryId) (e : Entry) (flags temp : Byte) (faults : List Byte),
    s.link.exchange = .txn x again → s.presentEntry x.identity = some (k, e) → x.kind = .readStatus → faults.length = e.faults.length →
    let bits := faults.map fun b => { tempWarn := b.getLsbD 0, tempShut := b.getLsbD 1, overcurrent := b.getLsbD 2, dcFault := b.getLsbD 3 : FaultBits }
    let items := statusItems e (flags.getLsbD 0) bits
    ∃ t, exec (.transactionComplete (.acknowledged (flags :: temp :: faults))) s = .next t ∧ Relinked s t ∧ t.link.exchange = .window ∧
      t.entry k = some { e with misses := 0, supplyLow := flags.getLsbD 0, temperature := some temp.toInt, faults := bits } ∧
      (t.protModule k).map (·.records) =
        (s.protModule k).map (fun m => (items.foldl (fun m i => m.applyItem s.now i.1 i.2 temp.toInt) m).records) ∧
      (∀ j, j ≠ k → t.protModule j = s.protModule j) ∧
      (∀ m, s.protModule k = some m → ∃ p, t.protModule k = some p ∧ p.records.length = m.records.length ∧
        p.supplyLow = (if flags.getLsbD 0 = e.supplyLow then m.supplyLow else flags.getLsbD 0) ∧
        (let isNew := fun (bit : FaultBits → Bool) (ch : Nat) => (bits[ch - 1]?).any bit && !(e.faults[ch - 1]?).any bit
         p.temperature = (if (List.range' 1 8).any (fun ch => isNew (·.tempWarn) ch || isNew (·.tempShut) ch) then some temp.toInt else m.temperature) ∧
         ∀ ch r, 1 ≤ ch → ch ≤ 8 → m.records[ch - 1]? = some r →
           let given := fun (kind : FaultKind) (bit : FaultBits → Bool) (r : ProtRecord) => if isNew bit ch then r.apply s.now kind else r
           let r' := given .dcFault (·.dcFault) (given .overcurrent (·.overcurrent)
             (given .tempShut (·.tempShut) (given .tempWarn (·.tempWarn) r)))
           p.records[ch - 1]? = some r' ∧ ChannelTold s t e ch r r' m.supplyLow p.supplyLow p.records)) ∧
      (flags.getLsbD 1 = true → ∃ y ∈ t.link.urgent ++ t.link.ordinary ++ t.link.marks, y.identity = x.identity ∧ y.kind = .readDesc)) ∧
  (∀ (s : State) (x : Txn) (again : Bool) (k : EntryId) (e : Entry) (n : Byte),
    s.link.exchange = .txn x again → s.presentEntry x.identity = some (k, e) → x.kind = .readDesc →
    (1 ≤ n.toNat ∧ n.toNat ≤ 8 → ∃ t, exec (.transactionComplete (.acknowledged [n])) s = .next t ∧ Relinked s t ∧ t.link.exchange = .window ∧
      t.entry k = some { e with misses := 0, faults := e.faults.take n.toNat ++ List.replicate (n.toNat - e.faults.length) .clear } ∧
      (∀ j, j ≠ k → t.protModule j = s.protModule j) ∧
      (n.toNat = e.faults.length → t.protModule k = s.protModule k ∧ t.slots = s.slots) ∧
      (n.toNat ≠ e.faults.length → ModuleSlotsTold s t x.identity n.toNat (s.protModule k) (t.protModule k) ∧
        (s.protModule k = none → t.protModule k = none) ∧
        ∀ m, s.protModule k = some m → ∃ p, t.protModule k = some p ∧ p.supplyLow = m.supplyLow ∧ p.temperature = m.temperature ∧
          p.records = m.records.take n.toNat ++ List.replicate (n.toNat - m.records.length) newRecord ∧
          ((∃ ch, n.toNat < ch ∧ ch ≤ 8 ∧ MutedIn m.records ch) → Asked t x.identity .writeMute (MutedIn p.records)))) ∧
    (n.toNat = 0 ∨ 8 < n.toNat → exec (.transactionComplete (.acknowledged [n])) s = exec (.transactionComplete .notAcknowledged) s)) ∧
  (∀ (s : State) (id : Identity), Calm s → s.link.exchange = .release id →
    exec .absentReleaseAssign s = .next { s with link := { s.link with lastAssign := some (some id, 0), exchange := .window } }) ∧
  (∀ (s : State) (owed : Option Identity), Calm s → s.link.exchange = .recovery owed false →
    exec (.stallRecoveryRepeat false) s = .next { s with
      now := s.now + 2, link := { s.link with counters := { s.link.counters with stalls := count16 s.link.counters.stalls } } } ∧
    ∃ t, exec (.stallRecoveryRepeat true) s = .next t ∧ Noted { s with
      now := s.now + 2, link := { s.link with stuck := false, exchange := owed.elim .window .release } } t ∧ Told .link t) ∧
  (∀ (s : State) (k : EntryId) (e : Entry), s.entry k = some e → e.presence = .absent → exec (.pollTimerExpiry k) s = .next s) ∧
  (∀ (s : State) (k : EntryId) (e : Entry), s.entry k = some e → s.presentEntry e.identity = some (k, e) →
    ∃ t, exec (.pollTimerExpiry k) s = .next t ∧ Relinked { s with now := max s.now (e.polled + 100) } t ∧
      t.entry k = some { e with polled := t.now } ∧
      (s.link.exchange ≠ .idle →
        ∃ y ∈ t.link.urgent ++ t.link.ordinary ++ t.link.marks, y.identity = e.identity ∧ y.kind = .readStatus) ∧
      (s.link.exchange = .idle → LinkRested s.link → s.link.marks = [] →
        t.link.exchange = .txn { identity := e.identity, kind := .readStatus, payload := 0 } false))

/-- Windows and the arbiter (R126, R127, R134, R135). The lowest of the addresses that hold the line low is served. A window without a
request goes on to the next round of an enumeration in flight, else to a pending enumeration, the urgent queue, the ordinary queue, a JOIN
round, or IDLE, in this order. When the head of the ordinary queue leaves, one pending mark is promoted to the queue's tail with its
payload: that of the module with the lowest address, and of that module's marks the first of CLEAR_FAULT, WRITE_ENABLE, READ_DESC,
READ_STATUS; the other marks stay as they were. A JOIN request sets join pending when the policy is ACCEPT, and is acknowledged with that
policy outside an enumeration. A request of no known kind or of an address no PRESENT entry holds is not acknowledged, discarded and
counted; one of a fault kind that is none, or whose mask names no channel, is acknowledged, discarded and counted; any other FAULT request
is acknowledged and updates the last status of its masked channels; what it does to the protection unit is in another statement
(ProtectionRecordTable). The model's choices: the last acknowledge is kept as an output (log 21), FAULT_REQUEST carries the kind byte (log
23). -/
def Obligations.WindowsAndRequests : Prop :=
  (∀ (s : State) (addresses : List (BitVec 3)), Calm s → s.link.exchange = .window ∨ s.link.exchange = .idle → addresses ≠ [] →
    ∃ m ∈ addresses, (∀ x ∈ addresses, m.toNat ≤ x.toNat) ∧
      exec (.requestWindow addresses) s = .next { s with link := { s.link with exchange := .request m } }) ∧
  (∀ s : State, Calm s → s.link.exchange = .window →
    let l := s.link
    let run := fun (o : Origin) => ({ origin := o, rounds := 0, assigned := 0, failed := 0 } : EnumRun)
    let goes := fun (q : Link) => exec (.requestWindow []) s = .next { s with link := q }
    let address := fun (m : Txn) => (s.presentEntry m.identity).elim 0 fun q => q.2.address
    let order := fun (m : Txn) => [TxnKind.clearFault, .writeEnable, .readDesc, .readStatus].idxOf m.kind
    (l.enumRun ≠ none → goes { l with exchange := .call }) ∧
    (l.enumRun = none →
      (∀ o, l.enumPending = some o → o ≠ .join → goes { l with exchange := .call, enumPending := none, enumRun := some (run o) }) ∧
      (l.enumPending = none →
        (∀ x rest, l.urgent = x :: rest → goes { l with urgent := rest, exchange := .txn x false }) ∧
        (l.urgent = [] →
          (∀ x rest, l.ordinary = x :: rest → l.marks = [] → goes { l with ordinary := rest, exchange := .txn x false }) ∧
          (∀ x rest y, l.ordinary = x :: rest → l.ordinary.length ≤ 16 → y ∈ l.marks → (∀ m ∈ l.marks, s.presentEntry m.identity ≠ none) →
            (∀ m ∈ l.marks, m ≠ y → address y < address m ∨ (address y = address m ∧ order y < order m)) →
            goes { l with ordinary := rest ++ [y], marks := l.marks.filter (· ≠ y), exchange := .txn x false }) ∧
          (l.ordinary = [] →
            (l.joinPending = true → goes { l with exchange := .call, joinPending := false, enumRun := some (run .join) }) ∧
            (l.joinPending = false → goes { l with exchange := .idle })))))) ∧
  (∀ (s : State) (a : BitVec 3) (kind fault mask value : Byte), Calm s → s.link.exchange = .request a → LinkRested s.link →
    let l := s.link
    let next : Exchange := if l.enumRun = none then .idle else .call
    let discarded := fun (ack : Bool) =>
      { l with exchange := next, lastAck := some ack, counters := { l.counters with discarded := count16 l.counters.discarded } }
    (l.enumRun ≠ none → exec .joinRequest s = .next { s with link := { l with
      joinPending := l.accept, lastAck := some false, exchange := .call } }) ∧
    (l.enumRun = none → l.accept = false → exec .joinRequest s = .next { s with link := { l with lastAck := some false, exchange := .idle } }) ∧
    (l.enumRun = none → l.accept = true → exec .joinRequest s = .next { s with link := { l with
      lastAck := some true, exchange := .call, enumRun := some { origin := .join, rounds := 0, assigned := 0, failed := 0 } } }) ∧
    ((kind ≠ 1 ∧ kind ≠ 2) ∨ (kind = 1 ∧ ∀ k e, s.entry k = some e → e.presence = .present → e.address ≠ a.toNat) →
      exec (.faultRequest kind fault mask value) s = .next { s with link := discarded false }) ∧
    (∀ k e, s.entryAt a.toNat = some (k, e) → fault = 0 ∨ 7 < fault.toNat ∨
        (fault ≠ 5 ∧ fault ≠ 6 ∧ ∀ ch, 1 ≤ ch → ch ≤ e.faults.length → mask.getLsbD (ch - 1) = false) →
      exec (.faultRequest 1 fault mask value) s = .next { s with link := discarded true })) ∧
  (∀ (s : State) (a : BitVec 3) (fault mask value : Byte) (k : EntryId) (e : Entry), s.link.exchange = .request a →
    s.entryAt a.toNat = some (k, e) → 1 ≤ fault.toNat → fault.toNat ≤ 7 →
    (fault = 5 ∨ fault = 6 ∨ ∃ ch, 1 ≤ ch ∧ ch ≤ e.faults.length ∧ ch ≤ 8 ∧ mask.getLsbD (ch - 1) = true) →
    ∃ t y, exec (.faultRequest 1 fault mask value) s = .next t ∧ Relinked s t ∧ t.entry k = some y ∧ t.link.lastAck = some true ∧
      y.identity = e.identity ∧ y.address = e.address ∧ y.presence = e.presence ∧ y.misses = e.misses ∧ y.polled = e.polled ∧
      y.supplyLow = (if fault = 5 then true else if fault = 6 then false else e.supplyLow) ∧
      y.temperature = (if fault = 1 ∨ fault = 2 then some value.toInt else e.temperature) ∧
      y.faults.length = e.faults.length ∧
      ∀ ch b, 1 ≤ ch → ch ≤ 8 → e.faults[ch - 1]? = some b →
        y.faults[ch - 1]? = some (if mask.getLsbD (ch - 1) = false then b
          else if fault = 1 then { b with tempWarn := true } else if fault = 2 then { b with tempShut := true }
          else if fault = 3 then { b with overcurrent := true } else if fault = 4 then { b with dcFault := true }
          else if fault = 7 then .clear else b))

/-- Rounds of an enumeration (R119, R123 to R125). The identity read wins the address its entry holds when that is free, else the lowest
free one, a new module taking the lowest empty entry; an acknowledged ASSIGN is followed by READ_DESC; each is repeated once; a count of
1..8 makes the module PRESENT with a clear last status and its poll timer started: its records are created, or, when some are held, cut or
filled up, those in SHUT with cause LINK going to RECOVERING still muted; its supply flag is cleared, WRITE_MUTE and WRITE_ENABLE are
requested, and its slots decided again (R107, R138, R148); a second failure fails the round, and after a READ_DESC the address is released.
All ones, or a full table, ends the enumeration: its result is written and a host's reply placed. A stall in a round fails it once the line
is free, at once or after the recovery, and nothing of it is counted before. The reply at ROUND_LIMIT is not shown here. The model's
choices: the WRITE_ENABLE has the bit of every assigned channel, one beyond the new count too (log 48), the round's READ_DESC is counted
neither as completed nor as a negative acknowledge (log 62), the ASSIGN of that release is sent once, awaits no acknowledge, and the window
opens in the same event (log 49), the last ASSIGN is kept as an output (log 21), a stall of START's broadcast release counts as one of the
first round (log 68), a repeat of the recovery moves the clock by 2 ms (log 1); a reply stands before the notices (log 4). -/
def Obligations.RoundsAdmitModules : Prop :=
  ∀ (s : State) (r : EnumRun), s.link.enumRun = some r →
    let l := s.link
    let ended := fun (cause : EnumEnd) (t : State) =>
      Told .link t ∧ t.link.enumRun = none ∧ t.link.lastResult = some { assigned := r.assigned, failed := r.failed, cause := cause } ∧
      t.link.exchange = .window ∧ t.link.table = l.table ∧ offLink { t with control := s.control } = offLink s ∧
      (r.origin ≠ .host → t.control.longOps = s.control.longOps ∧ NoticesAdded s t) ∧
      (r.origin = .host → ∀ before o rest, s.control.longOps = before ++ o :: rest → o.kind = .enumeration →
        (∀ y ∈ before ++ rest, y.kind ≠ .enumeration) → t.control.longOps = before ++ rest ∧ ∃ notices, (∀ m ∈ notices, IsNotice m) ∧
          t.control.outgoing = s.control.outgoing ++ [{ kind := 0x80, tag := o.tag, payload :=
            [0, o.command, BitVec.ofNat 8 r.assigned, BitVec.ofNat 8 r.failed, if cause = .tableFull then 1 else 0] }] ++ notices)
    let free := fun (a : Nat) => ∀ k e, s.entry k = some e → e.presence = .present → e.address ≠ a
    let counted := fun (now : Nat) (admitted : Bool) (t : State) =>
      let rounds := r.rounds + 1
      let assigned := r.assigned + if admitted then 1 else 0
      let failed := r.failed + if admitted then 0 else 1
      t.link.exchange = .window ∧ offLink { t with control := s.control } = offLink { s with now := now } ∧
      (r.origin ≠ .join → rounds < 8 →
        t.link.enumRun = some { origin := r.origin, rounds := rounds, assigned := assigned, failed := failed }) ∧
      (r.origin = .join ∨ 8 ≤ rounds → Told .link t ∧ t.link.enumRun = none ∧
        t.link.lastResult = some { assigned := assigned, failed := failed, cause := .roundLimit } ∧
        (r.origin = .join → t.link.joinPending = (l.joinPending || (admitted && l.accept))))
    (∀ id : Identity, l.exchange = .call →
      (id = BitVec.allOnes 48 → ∃ t, exec (.identityResponse id) s = .next t ∧ ended .noResponse t ∧ t.link.joinPending = false) ∧
      (id ≠ BitVec.allOnes 48 → Calm s →
        (∀ k e, s.entryOf id = some k → s.entry k = some e → free e.address →
          exec (.identityResponse id) s = .next { s with link := { l with exchange := .assign { identity := id, address := e.address, entry := k } false } }) ∧
        (∀ a, 1 ≤ a → a ≤ 6 → free a → (∀ b, 1 ≤ b → b < a → ¬ free b) →
          (∀ k e, s.entryOf id = some k → s.entry k = some e → ¬ free e.address →
            exec (.identityResponse id) s = .next { s with link := { l with exchange := .assign { identity := id, address := a, entry := k } false } }) ∧
          (∀ k, s.entryOf id = none → s.entry k = none → (∀ j, j < k → s.entry j ≠ none) →
            exec (.identityResponse id) s = .next { s with link := { l with exchange := .assign { identity := id, address := a, entry := k } false } }))) ∧
      (id ≠ BitVec.allOnes 48 → s.entryOf id = none → (∀ k, s.entry k ≠ none) →
        ∃ t, exec (.identityResponse id) s = .next t ∧ ended .tableFull t)) ∧
    (∀ (w : Winner) (again : Bool), l.exchange = .assign w again →
      (Calm s → exec (.assignComplete true) s = .next { s with link := { l with exchange := .desc w false } }) ∧
      (Calm s → again = false → exec (.assignComplete false) s = .next { s with link := { l with exchange := .assign w true } }) ∧
      (again = true → ∃ t, exec (.assignComplete false) s = .next t ∧ counted s.now false t ∧ t.link.table = l.table ∧
        t.link.counters.roundsFailed = count16 l.counters.roundsFailed)) ∧
    (∀ (w : Winner) (again : Bool) (reply : Option Byte), l.exchange = .desc w again →
      (∀ b, reply = some b → 1 ≤ b.toNat → b.toNat ≤ 8 → ∃ t, exec (.roundReadDesc reply) s = .next t ∧ counted s.now true t ∧
        t.entry w.entry = some {
          identity := w.identity, address := w.address, presence := .present, misses := 0, supplyLow := false, temperature := none,
          faults := List.replicate b.toNat .clear, polled := s.now } ∧ Told .link t ∧ (∀ k, k ≠ w.entry → t.entry k = s.entry k) ∧
        (TableRight s → Admitted s t w b.toNat)) ∧
      ((∀ b, reply = some b → b.toNat = 0 ∨ 8 < b.toNat) →
        (Calm s → again = false → exec (.roundReadDesc reply) s = .next { s with link := { l with exchange := .desc w true } }) ∧
        (again = true → ∃ t, exec (.roundReadDesc reply) s = .next t ∧ counted s.now false t ∧ t.link.table = l.table ∧
          t.link.lastAssign = some (some w.identity, 0) ∧ t.link.counters.roundsFailed = count16 l.counters.roundsFailed))) ∧
    (let stalls := { l.counters with stalls := count16 l.counters.stalls }
     let failed := fun (now : Nat) (stall : Bool) (t : State) => counted now false t ∧ t.link.table = l.table ∧
       t.link.counters = { (if stall then stalls else l.counters) with roundsFailed := count16 l.counters.roundsFailed }
     (l.exchange = .call ∨ (∃ w again, l.exchange = .assign w again) ∨ (∃ w again, l.exchange = .desc w again) →
       (∃ t, exec (.linkStall true) s = .next t ∧ failed s.now true t) ∧
       ∃ t, exec (.linkStall false) s = .next t ∧
         Noted { s with link := { l with counters := stalls, exchange := .recovery none true, stuck := true } } t ∧ Told .link t) ∧
     (l.exchange = .recovery none true →
       (Calm s → exec (.stallRecoveryRepeat false) s = .next { s with now := s.now + 2, link := { l with counters := stalls } }) ∧
       ∃ t, exec (.stallRecoveryRepeat true) s = .next t ∧ failed (s.now + 2) false t ∧ t.link.stuck = false ∧ Told .link t))

/-! ## Amplifier protection (08) -/

/-- What an item of a FAULT request does to the record of each masked channel, state by state (R140 to R144), and the outward changes it makes:
the slot that the channel feeds takes the effective reduction and is SHUT when the channel is muted (R139, R146); a channel that enters SHUT or
LATCHED, muted already or not, or changes its muted field has a WRITE_MUTE with the module's whole mute mask requested, which waits or is in
flight (R146). Records of other channels and of other modules stay; supply items write the supply flag alone (R139). -/
def Obligations.ProtectionRecordTable : Prop :=
  ∀ (s : State) (a : BitVec 3) (fault mask value : Byte) (k : EntryId) (e : Entry) (m : ProtModule),
    s.link.exchange = .request a → s.entryAt a.toNat = some (k, e) → s.entryOf e.identity = some k → s.protModule k = some m →
    1 ≤ fault.toNat → fault.toNat ≤ 7 →
    (fault = 5 ∨ fault = 6 ∨ ∃ ch, 1 ≤ ch ∧ ch ≤ e.faults.length ∧ ch ≤ 8 ∧ mask.getLsbD (ch - 1) = true) →
    let after := fun (r : ProtRecord) =>
      let new := r.count = 0 ∨ 60000 ≤ s.now - r.windowStart
      let n := if new then 1 else r.count + 1
      let warned : ProtRecord := { r with state := .warned, cause := .temp, reduction := min 24 (r.reduction + 12), holdOff := none }
      match fault.toNat, r.state with
      | 1, .normal => warned
      | 1, .warned => warned
      | 1, .recovering => if r.muted then { warned with state := .shut } else warned
      | 2, .shut => { r with cause := .temp }
      | 2, .latched => r
      | 2, _ => { r with state := .shut, cause := .temp, muted := true, holdOff := none }
      | 3, .shut => { r with cause := .current }
      | 3, .latched => r
      | 3, _ => { r with
          state := if 3 ≤ n then .latched else .shut, cause := .current, muted := true, holdOff := none, count := n,
          windowStart := if new then s.now else r.windowStart }
      | 4, _ => { r with state := .latched, cause := .dc, muted := true, holdOff := none }
      | 7, .warned => { r with state := .recovering, muted := false, holdOff := some s.now }
      | 7, .shut => { r with state := .recovering, muted := true, reduction := 0, holdOff := some s.now }
      | _, _ => r
    ∃ t p, exec (.faultRequest 1 fault mask value) s = .next t ∧ Relinked s t ∧ t.protModule k = some p ∧
      p.supplyLow = (if fault = 5 then true else if fault = 6 then false else m.supplyLow) ∧
      p.temperature = (if fault = 1 ∨ fault = 2 then some value.toInt else m.temperature) ∧
      p.records.length = m.records.length ∧ (∀ j, j ≠ k → t.protModule j = s.protModule j) ∧
      ∀ ch r, 1 ≤ ch → ch ≤ 8 → m.records[ch - 1]? = some r →
        let r' := if mask.getLsbD (ch - 1) = true ∧ ch ≤ e.faults.length then after r else r
        p.records[ch - 1]? = some r' ∧ ChannelTold s t e ch r r' m.supplyLow p.supplyLow p.records

/-- PROT.RESET of a LATCHED channel of a PRESENT module takes it to NORMAL, its count and reduction 0, its fault bits cleared, a CLEAR_FAULT
for it and a WRITE_MUTE requested; of an ABSENT module, to SHUT with cause LINK, still muted. It is refused with BAD_VALUE for a channel
without a record and with NOT_NOW for one that is not LATCHED (R149). The hold-off timer takes a channel to NORMAL at 3 s, unmuted, with no
reduction (R145). In both cases the slot it feeds takes the effective reduction and is decided again, out of SHUT among it, and a muted
channel of a PRESENT module has a WRITE_MUTE requested (R146). Records of other channels and of other modules stay. The model's choices: the
reply stands before the notices (log 4); both requests of a reset are queued before an IDLE link takes one, the urgent one first (log 39);
an expiry row moves the clock to the later of now and its start plus limit (log 1). -/
def Obligations.ProtResetAndHoldOff : Prop :=
  (∀ (s : State) (c : Command) (id : List Byte) (ch : Byte), Heads s c → c.kind = 0x58 → id.length = 6 → c.payload = id ++ [ch] →
    let who := idField c.payload 0
    let n := ch.toNat
    (s.entryOf who = none ∨ n = 0 → exec .protReset s = .next (answered s c .badValue []).settleLink) ∧
    (∀ k e m, s.entryOf who = some k → s.entry k = some e → s.protModule k = some m → 1 ≤ n →
      (m.records[n - 1]? = none → exec .protReset s = .next (answered s c .badValue []).settleLink) ∧
      (∀ r, m.records[n - 1]? = some r → r.state ≠ .latched → exec .protReset s = .next (answered s c .notNow []).settleLink) ∧
      (∀ r, m.records[n - 1]? = some r → r.state = .latched → n ≤ 8 → ∃ t p, exec .protReset s = .next t ∧
        Relinked (answered s c .ok []) t ∧ t.protModule k = some p ∧ p.supplyLow = m.supplyLow ∧
        (∀ j, j ≠ n - 1 → p.records[j]? = m.records[j]?) ∧ (∀ j, j ≠ k → t.protModule j = s.protModule j) ∧
        (∀ r', p.records[n - 1]? = some r' → ChannelTold s t e n r r' m.supplyLow p.supplyLow p.records) ∧
        (e.presence = .present →
          p.records[n - 1]? = some { r with state := .normal, cause := .none, reduction := 0, muted := false, count := 0, holdOff := none } ∧
          t.entry k = some { e with faults := e.faults.set (n - 1) .clear } ∧
          (∃ y, (t.link.exchange = .txn y false ∨ y ∈ t.link.urgent ++ t.link.ordinary ++ t.link.marks) ∧ y.identity = who ∧
            y.kind = .clearFault ∧ y.payload = 1#8 <<< (n - 1)) ∧
          (r.muted = true → Asked t who .writeMute (MutedIn p.records))) ∧
        (e.presence = .absent →
          p.records[n - 1]? = some { r with state := .shut, cause := .link, reduction := 0, muted := true, count := 0, holdOff := none } ∧
          t.entry k = some e)))) ∧
  (∀ (s : State) (k : EntryId) (ch : Fin 8) (e : Entry) (m : ProtModule) (r : ProtRecord) (t0 : Nat), s.entry k = some e →
    s.protModule k = some m → m.records[ch.val]? = some r → r.holdOff = some t0 →
    ∃ t p, exec (.holdoffExpiry k ch) s = .next t ∧ Relinked { s with now := max s.now (t0 + 3000) } t ∧ t.protModule k = some p ∧
      p.supplyLow = m.supplyLow ∧ p.temperature = m.temperature ∧
      (∀ j, j ≠ ch.val → p.records[j]? = m.records[j]?) ∧ (∀ j, j ≠ k → t.protModule j = s.protModule j) ∧
      (let r' := { r with state := .normal, cause := .none, reduction := 0, muted := false, holdOff := none }
       p.records[ch.val]? = some r' ∧
       (s.entryOf e.identity = some k → ChannelTold s t e (ch.val + 1) r r' m.supplyLow p.supplyLow p.records)))

/-! ## The tuner (09) -/

/-- The tuner's commands (R154, R155, R157, R158, R161, R163, R167). POWER on from OFF or FAULT probes the front end: acknowledged, the
power-on tune to the channel held begins, otherwise the tuner is in FAULT. POWER off abandons everything. REGION acts in OFF and IDLE, drops
the AM stations, and in IDLE on AM tunes anew. THRESHOLD clamps and writes. TUNE, SEEK and SCAN are refused outside IDLE; taken, each keeps
its reply, has the station data cleared, and visits its first channel. ABORT answers the operation in flight with ABORTED before its own OK;
during a return tune, a power-on tune, and a tune or seek already aborted it changes nothing. A field out of range is refused with
BAD_VALUE. Nothing changes but the tuner and what follows from its state, P10 among it (R6). The model's choices: the row carries the
outcome of the probe (log 14), what the probe reads is not written into the record (log 54), POWER off, too, answers the operation in flight
with ABORTED before its own OK (log 50), a clearing of the station data leaves end cause none (log 9), an abort sends the alignment in place
of a SEARCH not yet acknowledged (log 18), an aborted seek that has found its station stays SEEKING, its operation none, until it has
finished on its channel (log 67), the reply stands before the notices (log 4), OK of THRESHOLD carries the thresholds and the ABORTED reply
at POWER off no data (log 6), a field out of range is refused so in every state of the tuner (log 61). -/
def Obligations.TunerCommands : Prop :=
  ∀ (s : State) (c : Command), Calm s → Heads s c →
    let x := s.tuner
    let visiting := fun (q : Tuner) (state : TunerState) (channel : Nat) (job : Job) =>
      ({ q with state := state, channel := channel, job := job, step := .setFrequency, again := false, hit := false, lowSince := none } : Tuner)
    let cleared := fun (t : State) => t.stationData =
      { StationData.reset with badGroups := s.stationData.badGroups, starts := t.stationData.starts, ends := t.stationData.ends }
    let after := fun (y : State) (q : Tuner) (t : State) => t.tuner = q ∧ Retuned y t ∧ (q.state ≠ x.state → TunerPortRight t)
    let longOp := fun (before : List LongOp) (op : LongOp) (rest : List LongOp) =>
      s.control.longOps = before ++ op :: rest ∧ op.kind = .tuner ∧ ∀ y ∈ before ++ rest, y.kind ≠ .tuner
    let abortedFirst := fun (before rest : List LongOp) (op : LongOp) (data : List Byte) =>
      ({ answered s c .ok [] with control := { (answered s c .ok []).control with
          longOps := before ++ rest,
          outgoing := s.control.outgoing ++ [{ kind := 0x80, tag := op.tag, payload := 7 :: op.command :: data },
            { kind := 0x80, tag := c.tag, payload := [0, c.kind] }] } } : State)
    (∀ probe : Bool, c.kind = 0x60 →
      (c.payload = [0] → x.state = .off ∨ x.state = .fault →
        (probe = true → ∃ t, exec (.tunPower probe) s = .next t ∧ cleared t ∧
          after (answered s c .ok []) (visiting x .tuning x.channel (.back x.channel false)) t) ∧
        (probe = false → ∃ t, exec (.tunPower probe) s = .next t ∧
          after (answered s c .noResource []) (if x.state = .off then { x with state := .fault, lowSince := none } else x) t)) ∧
      (c.payload = [0] → x.state ≠ .off → x.state ≠ .fault → exec (.tunPower probe) s = .next (answered s c .ok [])) ∧
      (c.payload = [1] → x.state = .off → exec (.tunPower probe) s = .next (answered s c .ok [])) ∧
      (c.payload = [1] → x.state ≠ .off →
        let off := { x with state := .off, op := none, job := .none, step := .rest, again := false, lowSince := none }
        ((∀ o ∈ s.control.longOps, o.kind ≠ .tuner) →
          ∃ t, exec (.tunPower probe) s = .next t ∧ cleared t ∧ after (answered s c .ok []) off t) ∧
        (∀ before op rest, longOp before op rest → ∃ t, exec (.tunPower probe) s = .next t ∧ cleared t ∧
          after (abortedFirst before rest op []) off t))) ∧
    (∀ b : Byte, c.kind = 0x61 → c.payload = [b] → b.toNat ≤ 1 →
      let region : Region := if b = 0 then .khz9 else .khz10
      let fm := s.stations.filter fun y => y.band == .fm
      (x.state ≠ .off → x.state ≠ .idle → exec .tunRegion s = .next (answered s c .notNow [])) ∧
      (x.state = .off ∨ x.state = .idle →
        (x.region = region → exec .tunRegion s = .next (answered s c .ok [])) ∧
        (x.region ≠ region → x.state = .off ∨ x.band = .fm → ∃ t, exec .tunRegion s = .next t ∧
          Noted { answered s c .ok [] with stations := fm, tuner := { x with region := region } } t) ∧
        (x.region ≠ region → x.state = .idle → x.band = .am → ∃ t, exec .tunRegion s = .next t ∧ cleared t ∧
          after { answered s c .ok [] with stations := fm }
            (visiting { x with region := region } .tuning x.channel (.back x.channel false)) t))) ∧
    (∀ a b d e f g : Byte, ∀ on : Bool, c.kind = 0x62 → c.payload = [a, b, d, e, f, g, if on then 0 else 1] →
      let st := max 0 (min 120 (word2 a b))
      let mp := max 0 (min 100 (word2 d e))
      let fl := max 0 (min 120 (word2 f g))
      let tuner := { x with strengthThreshold := st.toNat, multipathThreshold := mp.toNat, followThreshold := fl.toNat, follow := on, lowSince := if on then x.lowSince else none }
      ∃ t, exec .tunThreshold s = .next t ∧
        Noted { answered s c (if st = word2 a b ∧ mp = word2 d e ∧ fl = word2 f g then .ok else .clamped) (encInt2 st ++ encInt2 mp ++ encInt2 fl) with tuner := tuner } t) ∧
    (let bad := fun (row : Instr) => exec row s = .next (answered s c .badValue [])
     (∀ b hi lo : Byte, c.kind = 0x63 → c.payload = [b, hi, lo] → 1 < b.toNat ∨ (if b = 0 then 410 else 119) < (hi ++ lo).toNat → bad .tunTune) ∧
     (∀ b : Byte, c.payload = [b] → 1 < b.toNat → (∀ probe, c.kind = 0x60 → bad (.tunPower probe)) ∧ (c.kind = 0x61 → bad .tunRegion) ∧
       (c.kind = 0x64 → bad .tunSeek) ∧ (c.kind = 0x65 → bad .tunScan)) ∧
     (∀ a b d e f g h : Byte, c.kind = 0x62 → c.payload = [a, b, d, e, f, g, h] → 1 < h.toNat → bad .tunThreshold)) ∧
    (∀ (start : Instr) (bytes : List Byte) (op : TunerOp) (job : Job) (state : TunerState) (band : Band) (channel : Nat), c.payload = bytes →
      (∃ b hi lo, start = .tunTune ∧ c.kind = 0x63 ∧ bytes = [b, hi, lo] ∧ (b = 0 ∧ band = .fm ∨ b = 1 ∧ band = .am) ∧
          channel = (hi ++ lo).toNat ∧ channel ≤ (if band = .fm then 410 else 119) ∧ state = .tuning ∧ job = .tune false ∧
          op = { kind := .tune, start := x.channel, loop := 0, found := 0, listFull := false }) ∨
        (∃ up : Bool, start = .tunSeek ∧ c.kind = 0x64 ∧ bytes = [if up then 0 else 1] ∧ band = x.band ∧ state = .seeking ∧ job = .seekStep up ∧
          (let last := if band = .fm then 410 else 119
           x.channel ≤ last ∧ channel = if up then (if x.channel = last then 0 else x.channel + 1) else if x.channel = 0 then last else x.channel - 1) ∧
          op = { kind := .seek, start := x.channel, loop := if band = .fm then 411 else 120, found := 0, listFull := false }) ∨
        (∃ force : Bool, start = .tunScan ∧ c.kind = 0x65 ∧ bytes = [if force then 1 else 0] ∧ band = x.band ∧ state = .scanning ∧ job = .scanStep ∧ channel = 0 ∧
          (force = true ∨ ∀ z, ((s.zone z).state = .running ∨ (s.zone z).state = .held) → ∀ e, (s.zone z).source = some e → (s.source e).port ≠ 10) ∧
          op = { kind := .scan, start := x.channel, loop := 0, found := 0, listFull := false }) →
      (x.state = .fault → exec start s = .next (answered s c .noResource [])) ∧
      (x.state ≠ .fault → x.state ≠ .idle → exec start s = .next (answered s c .notNow [])) ∧
      (x.state = .idle → ∃ t, exec start s = .next t ∧ cleared t ∧
        after { popped s with control := { (popped s).control with longOps := s.control.longOps ++ [{ kind := .tuner, command := c.kind, tag := c.tag }] } }
          (visiting { x with op := some op, band := band } state channel job) t ∧
        (s.named 10 = true → (t.port 10).state = .noSignal))) ∧
    (c.kind = 0x65 → c.payload = [0] → x.state = .idle →
      (∃ z e, ((s.zone z).state = .running ∨ (s.zone z).state = .held) ∧ (s.zone z).source = some e ∧ (s.source e).port = 10) →
      exec .tunScan s = .next (answered s c .notNow [])) ∧
    (c.kind = 0x66 →
      (x.job = .none → exec .tunAbort s = .next (answered s c .ok [])) ∧
      ((∃ ch keeps, x.job = .back ch keeps) ∨ x.job = .tune true ∨ x.job = .seekFound true → exec .tunAbort s = .next (answered s c .ok [])) ∧
      (∀ original i, x.job = .check original i → x.state = .checking → ∃ t, exec .tunAbort s = .next t ∧
        after (answered s c .ok []) (visiting x .tuning original (.back original true)) t) ∧
      (∀ before op rest o, longOp before op rest → x.op = some o →
        ((∃ up, x.job = .seekStep up) → x.state = .seeking → ∃ t, exec .tunAbort s = .next t ∧ cleared t ∧
          after (abortedFirst before rest op []) (visiting { x with op := none } .tuning o.start (.back o.start false)) t) ∧
        (x.job = .scanStep ∨ x.job = .scanFound → x.state = .scanning → ∃ t, exec .tunAbort s = .next t ∧ cleared t ∧
          after (abortedFirst before rest op [BitVec.ofNat 8 o.found]) (visiting { x with op := none } .tuning o.start (.back o.start false)) t) ∧
        (x.job = .tune false ∨ x.job = .seekFound false →
          let value := (s.stationMemory.lookup x.band x.channel).getD 128
          exec .tunAbort s = .next { abortedFirst before rest op [] with tuner := { x with
            op := none, job := if x.job = .tune false then .tune true else .seekFound true,
            again := match x.step with
              | .search _ => false
              | .setAlignment none => false
              | _ => x.again
            step := match x.step with
              | .search _ => .setAlignment (some value)
              | .setAlignment none => .setAlignment (some value)
              | step => step } })))

/-- The steps of a visit to a channel (R153, R156, R158 to R161, R163). SET_FREQUENCY acknowledged starts the settle time; at its end
station memory is looked up, which gives the alignment of the entry with the tag in its set (R171), and that alignment is sent, else SEARCH
for a host tune and 128 for anything else; the 5 ms wait follows, after a SEARCH the 20 ms before it; then the quality is read. A
transaction that is not acknowledged is sent once more; a second failure answers the operation in flight with NO_RESOURCE and takes the
tuner to FAULT, P10 with it (R6). A monitor read of an IDLE tuner writes the quality and drives the low-signal timer; with follow ON, a
signal weak for 5 s, a zone RUNNING on P10 and an alternate it begins a check, and while one of these fails it does not (R166). The model's
choices: the alignment is written when SET_ALIGNMENT is acknowledged (log 18), a monitor read stands for its repeat, too (log 14), and
writes the alignment with the quality (log 55), the low-signal timer starts with follow OFF, too (log 56), a check begins within the monitor
read (log 22), the NO_RESOURCE reply carries no data (log 6), a reply stands before the notices (log 4), an expiry row moves the clock to
the later of now and its start plus limit (log 1), a monitor read alike to 100 ms after the one before (log 1). -/
def Obligations.TunerVisitSteps : Prop :=
  (∀ (memory : StationMemory) (band : Band) (ch : Nat) (index : Fin 16), index.val = (ch + if band = .am then 8 else 0) % 16 →
    let ways := memory.sets[index]
    let holds := fun (v : Fin 4) (e : StationEntry) => ways[v] = some e ∧ e.band = band ∧ e.channel = ch
    (∀ w e, holds w e → (∀ v y, v < w → ¬ holds v y) → memory.lookup band ch = some e.alignment) ∧
    ((∀ v y, ¬ holds v y) → memory.lookup band ch = none)) ∧
  ∀ s : State,
    let x := s.tuner
    let goes := fun (row : Instr) (now : Nat) (q : Tuner) => Calm s → exec row s = .next { s with now := now, tuner := q }
    let failed := fun (row : Instr) (now : Nat) =>
      let q := { x with state := .fault, op := none, job := .none, step := .rest, again := false, lowSince := none }
      let timed := { s with now := now }
      x.state ≠ .fault →
        ((∀ o ∈ s.control.longOps, o.kind ≠ .tuner) → ∃ t, exec row s = .next t ∧ t.tuner = q ∧ Retuned timed t ∧ TunerPortRight t) ∧
        (∀ before op rest, s.control.longOps = before ++ op :: rest → op.kind = .tuner → (∀ y ∈ before ++ rest, y.kind ≠ .tuner) →
          let reply : Message := { kind := 0x80, tag := op.tag, payload := [5, op.command] }
          let control := { s.control with longOps := before ++ rest, outgoing := s.control.outgoing ++ [reply] }
          ∃ t, exec row s = .next t ∧ t.tuner = q ∧ Retuned { timed with control := control } t ∧ TunerPortRight t)
    let hit := s.stationMemory.lookup x.band x.channel
    (∀ q : Reading,
      (x.step = .setFrequency → goes (.tunerTransactionComplete (.acknowledged q)) s.now { x with again := false, step := .settle s.now }) ∧
      (x.step = .setAlignment none → goes (.tunerTransactionComplete (.acknowledged q)) s.now { x with again := false, step := .search s.now }) ∧
      (∀ a, x.step = .setAlignment (some a) →
        goes (.tunerTransactionComplete (.acknowledged q)) s.now { x with again := false, alignment := a, step := .wait s.now })) ∧
    (x.step = .setFrequency ∨ x.step = .read ∨ (∃ a, x.step = .setAlignment a) →
      (x.again = false → goes (.tunerTransactionComplete .notAcknowledged) s.now { x with again := true }) ∧
      (x.again = true → failed (.tunerTransactionComplete .notAcknowledged) s.now)) ∧
    (∀ t0 : Nat,
      (x.step = .settle t0 → goes .settleTimeExpiry (max s.now (t0 + if x.band = .fm then 10 else 30)) { x with
        hit := hit.isSome, step := .setAlignment (hit.or (if x.job = .tune false then none else some 128)) }) ∧
      (x.step = .search t0 → goes .alignmentSearchExpiry (max s.now (t0 + 20)) { x with step := .wait (max s.now (t0 + 20)) }) ∧
      (x.step = .wait t0 → goes .qualityWaitExpiry (max s.now (t0 + 5)) { x with step := .read })) ∧
    (x.state = .idle →
      let now := max s.now (x.monitorSince + 100)
      failed (.monitorRead none) now ∧
      ∀ q : Reading,
        let fm := x.band = .fm
        let quality : Quality := { strength := q.strength.toNat, multipath := if fm then q.multipath.toNat else 0, stereo := fm && q.stereo }
        let weak := fm ∧ q.strength.toNat < x.followThreshold
        let read := { x with
          alignment := q.alignment, quality := quality, monitorSince := now, lowSince := if weak then some (x.lowSince.getD now) else none }
        (x.follow = false ∨ ¬ weak ∨ (∀ t1, x.lowSince = some t1 → now - t1 < 5000) ∨ s.stationData.alternates = [] ∨
            (∀ z e, (s.zone z).state = .running → (s.zone z).source = some e → (s.source e).port ≠ 10) → goes (.monitorRead (some q)) now read) ∧
        (∀ t1 ch rest z e, x.follow = true → weak → x.lowSince = some t1 → 5000 ≤ now - t1 → s.stationData.alternates = ch :: rest →
          (s.zone z).state = .running → (s.zone z).source = some e → (s.source e).port = 10 → Calm s →
          ∃ t, exec (.monitorRead (some q)) s = .next t ∧ t.tuner = { read with
              state := .checking, job := .check x.channel 0, channel := ch, step := .setFrequency, again := false, hit := false, lowSince := none } ∧
            Retuned { s with now := now } t ∧ t.stationData = s.stationData ∧ TunerPortRight t ∧
            (s.named 10 = true → (t.port 10).state = .noSignal)))

/-- What a measurement does, by what is under way (R156, R158 to R163, R166). A tune and a found station of a seek end in IDLE, are handed
to station memory and answered OK, but for one that has been aborted. A seek step that passes is a station found; one that does not goes to
the next channel, or back to the start when all have been tried. A passing channel of a scan enters the station list: in its place by band,
FM first, and channel, or with the strength of its entry replaced, code and name kept (R162); a full list ends the scan. A return tune ends
in IDLE with NOT_FOUND for a seek and the found count for a scan. A passing alternate of a check waits for an IDENT group of the stable
code; without it the next alternate is tried, after the last one the tuner returns. With every change of the tuner's state P10, named, is
LOCKED at 48000 Hz with PCM when that state is IDLE, OFF when it is OFF, NO_SIGNAL else (R6). The model's choices: the reply of a scan
carries LIST_FULL as a byte 0 or 1 (log 6), a reply stands before the notices (log 4), an expiry row moves the clock to the later of now and
its start plus limit (log 1). -/
def Obligations.MeasurementsDecide : Prop :=
  (∀ (before after : List Station) (y : Station), (∀ z ∈ y :: (before ++ after), z.channel ≤ 410) →
    let earlier := fun (a b : Station) => (a.band = .fm ∧ b.band = .am) ∨ (a.band = b.band ∧ a.channel < b.channel)
    (∀ z ∈ before, earlier z y) →
    ((∀ z ∈ after, earlier y z) → enterStation y (before ++ after) = before ++ y :: after) ∧
    (∀ old, old.band = y.band → old.channel = y.channel →
      enterStation y (before ++ old :: after) = before ++ { old with strength := y.strength } :: after)) ∧
  ∀ (s : State) (q : Reading),
    let x := s.tuner
    let row := Instr.tunerTransactionComplete (.acknowledged q)
    let fm := x.band = .fm
    let last := if fm then 410 else 119
    let quality : Quality := { strength := q.strength.toNat, multipath := if fm then q.multipath.toNat else 0, stereo := fm && q.stereo }
    let m := { x with again := false, alignment := q.alignment, quality := quality }
    let passes := x.strengthThreshold ≤ quality.strength ∧ (¬ fm ∨ quality.multipath ≤ x.multipathThreshold)
    let stored := s.stationMemory.handOver x.band x.channel q.alignment quality none none
    let idle := fun (now : Nat) => ({ m with
      state := .idle, op := none, job := .none, step := .rest, again := false, lowSince := none, monitorSince := now } : Tuner)
    let visit := fun (y : Tuner) (ch : Nat) (job : Job) =>
      ({ y with channel := ch, job := job, step := .setFrequency, again := false, hit := false } : Tuner)
    let back := fun (y : Tuner) (ch : Nat) (keeps : Bool) =>
      ({ visit y ch (.back ch keeps) with state := .tuning, lowSince := none } : Tuner)
    let replied := fun (y : State) (code : Byte) (data : List Byte) (row : Instr) (z : Tuner) =>
      ∀ before op rest, s.control.longOps = before ++ op :: rest → op.kind = .tuner → (∀ o ∈ before ++ rest, o.kind ≠ .tuner) →
        let reply : Message := { kind := 0x80, tag := op.tag, payload := code :: op.command :: data }
        let control := { s.control with longOps := before ++ rest, outgoing := s.control.outgoing ++ [reply] }
        ∃ t, exec row s = .next t ∧ t.tuner = z ∧ Retuned { y with control := control } t ∧ (z.state ≠ x.state → TunerPortRight t)
    let becomes := fun (y : State) (row : Instr) (z : Tuner) =>
      ∃ t, exec row s = .next t ∧ t.tuner = z ∧ Retuned y t ∧ (z.state ≠ x.state → TunerPortRight t)
    let alternate := fun (y : State) (row : Instr) (z : Tuner) (original i : Nat) =>
      (∀ ch, s.stationData.alternates[i]? = some ch → ∃ t, exec row s = .next t ∧ Noted { y with tuner := visit z ch (.check original i) } t) ∧
      (s.stationData.alternates[i]? = none → becomes y row (back z original true))
    (x.step = .read →
      (x.job = .tune false → x.state = .tuning →
        replied { s with stationMemory := stored } 0 (encBand x.band ++ enc2 x.channel ++ encQuality quality) row (idle s.now)) ∧
      (x.job = .seekFound false ∨ ((∃ up, x.job = .seekStep up) ∧ x.op ≠ none ∧ passes ∧ x.hit = true) → x.state = .seeking →
        replied { s with stationMemory := stored } 0 (enc2 x.channel ++ encQuality quality) row (idle s.now)) ∧
      (x.job = .tune true ∨ x.job = .seekFound true → x.state = .tuning ∨ x.state = .seeking → becomes s row (idle s.now)) ∧
      (∀ up o, x.job = .seekStep up → x.op = some o → x.state = .seeking →
        let y := { m with op := some { o with loop := o.loop - 1 } }
        (passes → x.hit = false → Calm s → exec row s = .next { s with tuner := { y with job := .seekFound false, step := .setAlignment none } }) ∧
        (¬ passes → o.loop ≤ 1 → becomes s row (back y o.start false)) ∧
        (¬ passes → 1 < o.loop → x.channel ≤ last →
          let ch := if up then (if x.channel = last then 0 else x.channel + 1) else if x.channel = 0 then last else x.channel - 1
          ∃ t, exec row s = .next t ∧ Noted { s with tuner := visit y ch (.seekStep up) } t)) ∧
      (∀ o, x.op = some o → x.state = .scanning →
        let full := 48 ≤ s.stations.length ∧ ∀ y ∈ s.stations, ¬ (y.band = x.band ∧ y.channel = x.channel)
        let listed := enterStation { band := x.band, channel := x.channel, strength := quality.strength, code := none, name := none } s.stations
        let goOn := fun (y : State) (z : Tuner) =>
          (x.channel < last → ∃ t, exec row s = .next t ∧ Noted { y with tuner := visit z (x.channel + 1) .scanStep } t) ∧
          (last ≤ x.channel → becomes y row (back z o.start false))
        let found := { m with op := some { o with found := o.found + 1 } }
        (x.job = .scanStep → ¬ passes → goOn s m) ∧
        (x.job = .scanStep → passes → full → becomes s row (back { m with op := some { o with listFull := true } } o.start false)) ∧
        (x.job = .scanStep → passes → ¬ full → x.hit = true → goOn { s with stations := listed, stationMemory := stored } found) ∧
        (x.job = .scanStep → passes → ¬ full → x.hit = false → Calm s →
          exec row s = .next { s with stations := listed, tuner := { m with job := .scanFound, step := .setAlignment none } }) ∧
        (x.job = .scanFound → goOn { s with stationMemory := stored } found)) ∧
      (∀ ch keeps, x.job = .back ch keeps → x.state = .tuning →
        (x.op = none → becomes s row (idle s.now)) ∧
        (∀ o, x.op = some o → o.kind = .seek → replied s 8 [] row (idle s.now)) ∧
        (∀ o, x.op = some o → o.kind = .scan → replied s 0 [BitVec.ofNat 8 o.found, if o.listFull then 1 else 0] row (idle s.now))) ∧
      (∀ original i, x.job = .check original i → x.state = .checking →
        (passes → Calm s → exec row s = .next { s with tuner := { m with step := .ident s.now } }) ∧
        (¬ passes → alternate s row m original (i + 1)))) ∧
    (∀ original i t0, x.job = .check original i → x.state = .checking → x.step = .ident t0 →
      alternate { s with now := max s.now (t0 + 40) } .alternateIdentTimeout x original (i + 1) ∧
      ∀ b0 b1 b2 b3 b4 b5 b6 : Byte,
        let group := Instr.alternateIdentGroup [b0, b1, b2, b3, b4, b5, b6]
        let code : BitVec 16 := b1 ++ b2
        let ident := b6 = 0xA5 ^^^ b0 ^^^ b1 ^^^ b2 ^^^ b3 ^^^ b4 ^^^ b5 ∧ code ≠ 0 ∧ b0.toNat < 16
        (¬ ident → Calm s → exec group s = .next { s with tuner := { x with again := false } }) ∧
        (ident → s.stationData.stable = some code → Calm s →
          let stored := s.stationMemory.handOver x.band x.channel x.alignment x.quality (some code) s.stationData.fullName
          ∃ t, exec group s = .next t ∧ Retuned { s with stationMemory := stored } t ∧ t.stationData = s.stationData ∧ TunerPortRight t ∧ t.tuner = { x with
            state := .idle, op := none, job := .none, step := .rest, again := false, lowSince := none, monitorSince := s.now }) ∧
        (ident → s.stationData.stable ≠ some code → alternate s group x original (i + 1)))

/-! ## Station memory, the station list, station data (09, 10) -/

/-- The commands of the station list and of station memory (R164, R165, R172 to R175), and a hand-over (R171). STLIST.READ brings a run of
the list. PRESET locks the entry of the channel the tuner holds, the ranks above it falling by 1, or inserts it locked: into the lowest
invalid way, or in place of the entry of rank 1, every other rank falling by 1; with four locked entries it is not stored and counted.
UNLOCK makes a locked entry the most recent. FLUSH empties every set and keeps lock mode and counter. A hand-over that hits writes alignment
and quality and makes an unlocked entry the most recent; one that misses inserts the entry by the same choice of a way, unlocked with the
highest rank, or locked in lock mode. Nothing else changes: no other way, no other set, neither lock mode nor counter. The model's choices:
the coding of a run of the list where R186 leaves it open (log 6), a band or channel out of range is refused with BAD_VALUE in every state
(log 61). -/
def Obligations.StationMemoryCommands : Prop :=
  let drop := fun (k : Nat) (t : StationSet) =>
    t.map fun w => w.map fun y => { y with rank := y.rank.map fun r => if k < r then r - 1 else r }
  let count := fun (t : StationSet) => (t.toList.filter fun w => w.any (·.rank.isSome)).length
  let isAt := fun (t : StationSet) (w : Fin 4) (band : Band) (ch : Nat) (e : StationEntry) =>
    t[w] = some e ∧ e.band = band ∧ e.channel = ch ∧
      ∀ v : Fin 4, ∀ y, v < w → t[v] = some y → ¬ (y.band = band ∧ y.channel = ch)
  let lacks := fun (t : StationSet) (band : Band) (ch : Nat) => ∀ v : Fin 4, ∀ y, t[v] = some y → ¬ (y.band = band ∧ y.channel = ch)
  let lowestInvalid := fun (t : StationSet) (w : Fin 4) => t[w] = none ∧ ∀ v : Fin 4, v < w → t[v] ≠ none
  let lowestRank1 := fun (t : StationSet) (w : Fin 4) => (∀ v : Fin 4, t[v] ≠ none) ∧ t[w].any (fun y => y.rank == some 1) = true ∧
    ∀ v : Fin 4, v < w → t[v].any (fun y => y.rank == some 1) = false
  let noPlace := fun (t : StationSet) => ∀ v : Fin 4, ∃ y, t[v] = some y ∧ y.rank ≠ some 1
  (∀ (s : State) (c : Command), Calm s → Heads s c →
    let x := s.tuner
    let memory := fun (row : Instr) (r : Result) (m : StationMemory) => exec row s = .next { answered s c r [] with stationMemory := m }
    (∀ first count : Byte, c.kind = 0x68 → c.payload = [first, count] →
      (47 < first.toNat ∨ count = 0 ∨ 8 < count.toNat → exec .stlistRead s = .next (answered s c .badValue [])) ∧
      (first.toNat ≤ 47 → count ≠ 0 → count.toNat ≤ 8 →
        let run := (s.stations.drop first.toNat).take count.toNat
        let coded := fun (y : Station) =>
          [if y.band = .fm then 0 else 1, BitVec.ofNat 8 (y.channel / 256), BitVec.ofNat 8 y.channel, BitVec.ofNat 8 y.strength] ++
          (y.code.elim [0] fun k => [1, k.extractLsb' 8 8, k.extractLsb' 0 8]) ++ (y.name.elim [0] fun text => 1 :: text)
        exec .stlistRead s =
          .next (answered s c .ok (BitVec.ofNat 8 s.stations.length :: BitVec.ofNat 8 run.length :: run.flatMap coded)))) ∧
    (c.kind = 0x69 → exec .stlistClear s = .next { answered s c .ok [] with stations := [] }) ∧
    (∀ b : Byte, c.kind = 0x70 → c.payload = [b] →
      (b.toNat ≤ 1 → memory .stmemLockmode .ok { s.stationMemory with lockMode := b == 0 }) ∧
      (1 < b.toNat → exec .stmemLockmode s = .next (answered s c .badValue []))) ∧
    (c.kind = 0x73 → memory .stmemFlush .ok { s.stationMemory with sets := Vector.replicate 16 (Vector.replicate 4 none) }) ∧
    (∀ b hi lo : Byte, c.payload = [b, hi, lo] → 1 < b.toNat →
      (c.kind = 0x71 → exec .stmemPreset s = .next (answered s c .badValue [])) ∧
      (c.kind = 0x72 → exec .stmemUnlock s = .next (answered s c .badValue []))) ∧
    (∀ (b hi lo : Byte) (band : Band), c.payload = [b, hi, lo] → (b = 0 ∧ band = .fm ∨ b = 1 ∧ band = .am) →
      let ch := (hi ++ lo).toNat
      let index := setIndex band ch
      let ways := s.stationMemory.sets[index]
      let stored := fun (t : StationSet) => { s.stationMemory with sets := s.stationMemory.sets.set index t }
      ((if band = .fm then 410 else 119) < ch →
        (c.kind = 0x71 → exec .stmemPreset s = .next (answered s c .badValue [])) ∧
        (c.kind = 0x72 → exec .stmemUnlock s = .next (answered s c .badValue []))) ∧
      (ch ≤ (if band = .fm then 410 else 119) →
        (c.kind = 0x71 →
          (x.state ≠ .idle ∨ x.band ≠ band ∨ x.channel ≠ ch → exec .stmemPreset s = .next (answered s c .notNow [])) ∧
          (x.state = .idle → x.band = band → x.channel = ch →
            let new : StationEntry := {
              band := band, channel := ch, rank := none, alignment := x.alignment, quality := x.quality, code := s.stationData.stable,
              name := s.stationData.fullName }
            (∀ w e, isAt ways w band ch e →
              (e.rank = none → memory .stmemPreset .ok s.stationMemory) ∧
              (∀ k, e.rank = some k → memory .stmemPreset .ok (stored ((drop k ways).set w (some { e with rank := none }))))) ∧
            (lacks ways band ch →
              (∀ w, lowestInvalid ways w → memory .stmemPreset .ok (stored (ways.set w (some new)))) ∧
              (∀ w, lowestRank1 ways w → memory .stmemPreset .ok (stored ((drop 1 ways).set w (some new)))) ∧
              (noPlace ways →
                memory .stmemPreset .noResource { s.stationMemory with notStored := min 65535 (s.stationMemory.notStored + 1) })))) ∧
        (c.kind = 0x72 →
          (lacks ways band ch → exec .stmemUnlock s = .next (answered s c .notNow [])) ∧
          (∀ w e, isAt ways w band ch e →
            (∀ k, e.rank = some k → memory .stmemUnlock .ok s.stationMemory) ∧
            (e.rank = none → memory .stmemUnlock .ok (stored (ways.set w (some { e with rank := some (count ways + 1) }))))))))) ∧
  (∀ (m : StationMemory) (band : Band) (ch : Nat) (al : Byte) (q : Quality) (code : Option (BitVec 16)) (name : Option (List Byte)),
    let index := setIndex band ch
    let ways := m.sets[index]
    let after := m.handOver band ch al q code name
    let stored := fun (t : StationSet) => after = { m with sets := m.sets.set index t }
    let new := fun (n : Nat) => ({
      band := band, channel := ch, rank := if m.lockMode then none else some n, alignment := al, quality := q, code := code,
      name := name } : StationEntry)
    (∀ w e, isAt ways w band ch e →
      let fresh := { e with alignment := al, quality := q, code := code.or e.code, name := name.or e.name }
      (e.rank = none → stored (ways.set w (some fresh))) ∧
      (∀ k, e.rank = some k → stored ((drop k ways).set w (some { fresh with rank := some (count ways) })))) ∧
    (lacks ways band ch →
      (∀ w, lowestInvalid ways w → stored (ways.set w (some (new (count ways + 1))))) ∧
      (∀ w, lowestRank1 ways w → stored ((drop 1 ways).set w (some (new (count ways))))) ∧
      (noPlace ways → after = { m with notStored := min 65535 (m.notStored + 1) })))

/-- What a station data group does while the tuner is IDLE on FM (R176 to R180). A group with a wrong check byte or code 0 is counted; a
type above 2 changes nothing. The second IDENT group of a code makes it the stable code: name and alternates are emptied, the code is
written to station memory and the list. An IDENT group of the stable code writes its indications and drives the runs: a set run of 2 starts
an announcement, a clear run of 2 ends it. NAME groups of the stable code fill the name, which is written when it is complete; ALTFREQ
groups append a channel. At 180 s an announcement ends by TIMEOUT and re-arm is needed. Every group is an acknowledged READ_DATA, so the
next one is no repeat (R153). A change of the stable code under an active announcement is not shown here. The model's choices: the group
which makes a code stable also counts for the runs (log 26), a bad group of type 3 to 15 is counted (log 57), a set run that stands at 2
with no announcement active starts one at the next group with the bit set (log 58), an expiry row moves the clock to the later of now and
its start plus limit (log 1). -/
def Obligations.StationDataGroups : Prop :=
  (∀ (s : State) (b0 b1 b2 b3 b4 b5 b6 : Byte), Calm s → s.tuner.state = .idle → s.tuner.band = .fm →
    let row := Instr.stationDataGroup [b0, b1, b2, b3, b4, b5, b6]
    let x := s.stationData
    let code : BitVec 16 := b1 ++ b2
    let good := b6 = 0xA5 ^^^ b0 ^^^ b1 ^^^ b2 ^^^ b3 ^^^ b4 ^^^ b5 ∧ code ≠ 0
    let type := b0.toNat / 16
    let index := b0.toNat % 16
    let tuner := { s.tuner with again := false }
    let goes := fun (q : StationData) => exec row s = .next { s with stationData := q, tuner := tuner }
    let counted := { x with badGroups := if x.badGroups < 65535 then x.badGroups + 1 else 65535 }
    let held := s.stationMemory.entry .fm s.tuner.channel
    (¬ good → goes counted) ∧
    (good → 2 < type → goes x) ∧
    (good → type = 0 →
      (x.stable ≠ some code → (∀ n, x.candidate ≠ some (code, n)) → goes { x with candidate := some (code, 1), setRun := 0, clearRun := 0 }) ∧
      (x.stable ≠ some code → (∃ n, 1 ≤ n ∧ x.candidate = some (code, n)) → x.active = none →
        let flag := b3.getLsbD 1
        let q := { x with candidate := some (code, 2), stable := some code, name := Vector.replicate 4 none, alternates := [], capable := b3.getLsbD 0, stereo := b3.getLsbD 2, setRun := if flag then 1 else 0, clearRun := if flag then 0 else 1 }
        let listed := s.stations.map fun y => if y.band = .fm ∧ y.channel = s.tuner.channel then { y with code := some code } else y
        ∃ t, exec row s = .next t ∧ Told .station t ∧
          Noted { s with stationData := q, tuner := tuner, stations := listed, stationMemory := t.stationMemory } t ∧
          t.stationMemory.entry .fm s.tuner.channel = held.map (fun y => { y with code := some code }) ∧
          ∀ b ch, ¬ (b = .fm ∧ ch = s.tuner.channel) → t.stationMemory.entry b ch = s.stationMemory.entry b ch) ∧
      (x.stable = some code →
        let run := match x.candidate with
          | some (c, n) => if c = code then min 2 (n + 1) else 1
          | none => 1
        let q := { x with candidate := some (code, run), capable := b3.getLsbD 0, stereo := b3.getLsbD 2 }
        (b3.getLsbD 1 = true → x.setRun = 0 ∨ x.active ≠ none ∨ x.rearm = true → goes { q with setRun := min 2 (x.setRun + 1), clearRun := 0 }) ∧
        (b3.getLsbD 1 = true → 1 ≤ x.setRun → x.active = none → x.rearm = false → ∃ t, exec row s = .next t ∧ Told .announce t ∧ Retuned s t ∧ t.tuner = tuner ∧
          t.stationData = { q with setRun := 2, clearRun := 0, active := some s.now, starts := t.stationData.starts, ends := t.stationData.ends }) ∧
        (b3.getLsbD 1 = false → x.clearRun = 0 ∨ x.active = none → goes { q with
          setRun := 0, clearRun := min 2 (x.clearRun + 1), rearm := x.rearm && x.clearRun == 0 }) ∧
        (b3.getLsbD 1 = false → 1 ≤ x.clearRun → x.active ≠ none → ∃ t, exec row s = .next t ∧ Told .announce t ∧ Retuned s t ∧ t.tuner = tuner ∧
          t.stationData = { q with setRun := 0, clearRun := 2, rearm := false, active := none, endCause := .clear, starts := t.stationData.starts, ends := t.stationData.ends }))) ∧
    (good → type = 1 ∨ type = 2 → x.stable ≠ some code → goes x) ∧
    (good → type = 1 → x.stable = some code →
      (3 < index → goes counted) ∧
      (∀ i : Fin 4, i.val = index →
        let name := if x.name[i] ≠ some (b3, b4) ∧ (∀ j : Fin 4, x.name[j] ≠ none) then (Vector.replicate 4 none).set i (some (b3, b4)) else x.name.set i (some (b3, b4))
        ((∃ j : Fin 4, name[j] = none) ∨ x.name[i] = some (b3, b4) → goes { x with name := name }) ∧
        (∀ n : Vector (Byte × Byte) 4, x.name[i] ≠ some (b3, b4) → (∀ j : Fin 4, name[j] = some n[j]) →
          let whole := [n[0].1, n[0].2, n[1].1, n[1].2, n[2].1, n[2].2, n[3].1, n[3].2]
          let listed := s.stations.map fun y => if y.band = .fm ∧ y.channel = s.tuner.channel then { y with name := some whole } else y
          ∃ t, exec row s = .next t ∧ Told .station t ∧ Noted { s with stationData := { x with name := name }, tuner := tuner, stations := listed, stationMemory := t.stationMemory } t ∧
            t.stationMemory.entry .fm s.tuner.channel = held.map (fun y => { y with name := some whole }) ∧
            ∀ b ch, ¬ (b = .fm ∧ ch = s.tuner.channel) → t.stationMemory.entry b ch = s.stationMemory.entry b ch))) ∧
    (good → type = 2 → x.stable = some code →
      let ch := (b3 ++ b4).toNat
      (410 < ch → goes counted) ∧
      (ch ≤ 410 → goes (if ch ∈ x.alternates ∨ ch = s.tuner.channel ∨ 8 ≤ x.alternates.length then x else { x with alternates := x.alternates ++ [ch] })))) ∧
  (∀ (s : State) (t0 : Nat), s.stationData.active = some t0 →
    ∃ t, exec .announcementTimeout s = .next t ∧ Told .announce t ∧ Retuned { s with now := max s.now (t0 + 180000) } t ∧ t.tuner = s.tuner ∧
      t.stationData = { s.stationData with active := none, endCause := .timeout, rearm := true, ends := t.stationData.ends, starts := t.stationData.starts })

/-! ## Invariants -/

/-- The invariants hold after a hard reset. -/
def Obligations.InvariantsHoldAtReset : Prop :=
  ControlRight State.reset ∧ ZonesRight State.reset ∧ RecordsRight State.reset

/-- Every step keeps the command processor's bounds: at most 8 commands wait, messages and reservations never exceed 32, at most one notice
of each kind is queued, nothing is queued during initialisation, and nothing stays raised between events (R185, R188, R195). -/
def Obligations.EveryStepKeepsControlRight : Prop :=
  ∀ s t : State, ControlRight s → step s = .next t → ControlRight t

/-- Every step keeps the zones' bounds: the sum of the lip-sync allocations never exceeds 172,544 sample words, each is zero while its zone
is not RUNNING or HELD (R66); a volume stays between −160 and its zone's maximum, a stack holds at most four contexts; the wait list holds no
zone twice and only ACQUIRING zones with reason WAIT_DECODER (R26); at most one ANNOUNCEMENT entry lies on a stack, none while no announcement
is active, and the stack of a zone in STANDBY is empty (section 2.6); no port is bound to two decoders (R51); a destination is in at most one
slot, a lane in one zone (R105). -/
def Obligations.EveryStepKeepsZonesRight : Prop :=
  ∀ s t : State, ZonesRight s → step s = .next t → ZonesRight t

/-- Every step keeps the records in order: the station list holds at most 48 entries in strictly ascending (band, channel) order (R162), the
model's list of lane rates stays sorted (log 28), a protection record is muted in SHUT and LATCHED and not in NORMAL and WARNED (R138); the
identities of the module table are distinct, and so are the addresses of its PRESENT entries, all in 1 to 6 (R119); in station memory no tag
stands twice, every entry lies in its set, and the ranks of a set's n unlocked entries are 1 to n (R170). -/
def Obligations.EveryStepKeepsRecordsRight : Prop :=
  ∀ s t : State, RecordsRight s → step s = .next t → RecordsRight t
end

