-- ==== Sys2Proof/Laws/State.lean ====
section
/-! SUPPORT. What each record update of the state leaves and writes: one lemma per field per update, each true by `rfl`, and the
reading of one record after the writing of one. -/

namespace Sys2Proof.Machine

/-! ## setPort -/

@[simp] theorem State.setPort_now (s : State) (p : PortId) (x : Port) : (s.setPort p x).now = s.now := rfl
@[simp] theorem State.setPort_pending (s : State) (p : PortId) (x : Port) : (s.setPort p x).pending = s.pending := rfl
@[simp] theorem State.setPort_ports (s : State) (p : PortId) (x : Port) : (s.setPort p x).ports = s.ports.set p x := rfl
@[simp] theorem State.setPort_changedPorts (s : State) (p : PortId) (x : Port) : (s.setPort p x).changedPorts = s.changedPorts := rfl
@[simp] theorem State.setPort_sources (s : State) (p : PortId) (x : Port) : (s.setPort p x).sources = s.sources := rfl
@[simp] theorem State.setPort_zones (s : State) (p : PortId) (x : Port) : (s.setPort p x).zones = s.zones := rfl
@[simp] theorem State.setPort_waitList (s : State) (p : PortId) (x : Port) : (s.setPort p x).waitList = s.waitList := rfl
@[simp] theorem State.setPort_changedZones (s : State) (p : PortId) (x : Port) : (s.setPort p x).changedZones = s.changedZones := rfl
@[simp] theorem State.setPort_decoders (s : State) (p : PortId) (x : Port) : (s.setPort p x).decoders = s.decoders := rfl
@[simp] theorem State.setPort_changedDecoders (s : State) (p : PortId) (x : Port) : (s.setPort p x).changedDecoders = s.changedDecoders := rfl
@[simp] theorem State.setPort_changedFormats (s : State) (p : PortId) (x : Port) : (s.setPort p x).changedFormats = s.changedFormats := rfl
@[simp] theorem State.setPort_slots (s : State) (p : PortId) (x : Port) : (s.setPort p x).slots = s.slots := rfl
@[simp] theorem State.setPort_changedClips (s : State) (p : PortId) (x : Port) : (s.setPort p x).changedClips = s.changedClips := rfl
@[simp] theorem State.setPort_changedSlots (s : State) (p : PortId) (x : Port) : (s.setPort p x).changedSlots = s.changedSlots := rfl
@[simp] theorem State.setPort_lineRates (s : State) (p : PortId) (x : Port) : (s.setPort p x).lineRates = s.lineRates := rfl
@[simp] theorem State.setPort_ampRates (s : State) (p : PortId) (x : Port) : (s.setPort p x).ampRates = s.ampRates := rfl
@[simp] theorem State.setPort_link (s : State) (p : PortId) (x : Port) : (s.setPort p x).link = s.link := rfl
@[simp] theorem State.setPort_prot (s : State) (p : PortId) (x : Port) : (s.setPort p x).prot = s.prot := rfl
@[simp] theorem State.setPort_changedProt (s : State) (p : PortId) (x : Port) : (s.setPort p x).changedProt = s.changedProt := rfl
@[simp] theorem State.setPort_allRemoved (s : State) (p : PortId) (x : Port) : (s.setPort p x).allRemoved = s.allRemoved := rfl
@[simp] theorem State.setPort_tuner (s : State) (p : PortId) (x : Port) : (s.setPort p x).tuner = s.tuner := rfl
@[simp] theorem State.setPort_stations (s : State) (p : PortId) (x : Port) : (s.setPort p x).stations = s.stations := rfl
@[simp] theorem State.setPort_stationMemory (s : State) (p : PortId) (x : Port) : (s.setPort p x).stationMemory = s.stationMemory := rfl
@[simp] theorem State.setPort_stationData (s : State) (p : PortId) (x : Port) : (s.setPort p x).stationData = s.stationData := rfl
@[simp] theorem State.setPort_control (s : State) (p : PortId) (x : Port) : (s.setPort p x).control = s.control := rfl
@[simp] theorem State.setPort_raised (s : State) (p : PortId) (x : Port) : (s.setPort p x).raised = s.raised := rfl
@[simp] theorem State.setPort_dataOut (s : State) (p : PortId) (x : Port) : (s.setPort p x).dataOut = s.dataOut := rfl
@[simp] theorem State.setPort_freeCount (s : State) (p : PortId) (x : Port) : (s.setPort p x).freeCount = s.freeCount := rfl

/-! ## setSource -/

@[simp] theorem State.setSource_now (s : State) (e : SourceId) (x : Source) : (s.setSource e x).now = s.now := rfl
@[simp] theorem State.setSource_pending (s : State) (e : SourceId) (x : Source) : (s.setSource e x).pending = s.pending := rfl
@[simp] theorem State.setSource_ports (s : State) (e : SourceId) (x : Source) : (s.setSource e x).ports = s.ports := rfl
@[simp] theorem State.setSource_changedPorts (s : State) (e : SourceId) (x : Source) : (s.setSource e x).changedPorts = s.changedPorts := rfl
@[simp] theorem State.setSource_sources (s : State) (e : SourceId) (x : Source) : (s.setSource e x).sources = s.sources.set e x := rfl
@[simp] theorem State.setSource_zones (s : State) (e : SourceId) (x : Source) : (s.setSource e x).zones = s.zones := rfl
@[simp] theorem State.setSource_waitList (s : State) (e : SourceId) (x : Source) : (s.setSource e x).waitList = s.waitList := rfl
@[simp] theorem State.setSource_changedZones (s : State) (e : SourceId) (x : Source) : (s.setSource e x).changedZones = s.changedZones := rfl
@[simp] theorem State.setSource_decoders (s : State) (e : SourceId) (x : Source) : (s.setSource e x).decoders = s.decoders := rfl
@[simp] theorem State.setSource_changedDecoders (s : State) (e : SourceId) (x : Source) : (s.setSource e x).changedDecoders = s.changedDecoders := rfl
@[simp] theorem State.setSource_changedFormats (s : State) (e : SourceId) (x : Source) : (s.setSource e x).changedFormats = s.changedFormats := rfl
@[simp] theorem State.setSource_slots (s : State) (e : SourceId) (x : Source) : (s.setSource e x).slots = s.slots := rfl
@[simp] theorem State.setSource_changedClips (s : State) (e : SourceId) (x : Source) : (s.setSource e x).changedClips = s.changedClips := rfl
@[simp] theorem State.setSource_changedSlots (s : State) (e : SourceId) (x : Source) : (s.setSource e x).changedSlots = s.changedSlots := rfl
@[simp] theorem State.setSource_lineRates (s : State) (e : SourceId) (x : Source) : (s.setSource e x).lineRates = s.lineRates := rfl
@[simp] theorem State.setSource_ampRates (s : State) (e : SourceId) (x : Source) : (s.setSource e x).ampRates = s.ampRates := rfl
@[simp] theorem State.setSource_link (s : State) (e : SourceId) (x : Source) : (s.setSource e x).link = s.link := rfl
@[simp] theorem State.setSource_prot (s : State) (e : SourceId) (x : Source) : (s.setSource e x).prot = s.prot := rfl
@[simp] theorem State.setSource_changedProt (s : State) (e : SourceId) (x : Source) : (s.setSource e x).changedProt = s.changedProt := rfl
@[simp] theorem State.setSource_allRemoved (s : State) (e : SourceId) (x : Source) : (s.setSource e x).allRemoved = s.allRemoved := rfl
@[simp] theorem State.setSource_tuner (s : State) (e : SourceId) (x : Source) : (s.setSource e x).tuner = s.tuner := rfl
@[simp] theorem State.setSource_stations (s : State) (e : SourceId) (x : Source) : (s.setSource e x).stations = s.stations := rfl
@[simp] theorem State.setSource_stationMemory (s : State) (e : SourceId) (x : Source) : (s.setSource e x).stationMemory = s.stationMemory := rfl
@[simp] theorem State.setSource_stationData (s : State) (e : SourceId) (x : Source) : (s.setSource e x).stationData = s.stationData := rfl
@[simp] theorem State.setSource_control (s : State) (e : SourceId) (x : Source) : (s.setSource e x).control = s.control := rfl
@[simp] theorem State.setSource_raised (s : State) (e : SourceId) (x : Source) : (s.setSource e x).raised = s.raised := rfl
@[simp] theorem State.setSource_dataOut (s : State) (e : SourceId) (x : Source) : (s.setSource e x).dataOut = s.dataOut := rfl
@[simp] theorem State.setSource_freeCount (s : State) (e : SourceId) (x : Source) : (s.setSource e x).freeCount = s.freeCount := rfl

/-! ## setZone -/

@[simp] theorem State.setZone_now (s : State) (z : ZoneId) (x : Zone) : (s.setZone z x).now = s.now := rfl
@[simp] theorem State.setZone_pending (s : State) (z : ZoneId) (x : Zone) : (s.setZone z x).pending = s.pending := rfl
@[simp] theorem State.setZone_ports (s : State) (z : ZoneId) (x : Zone) : (s.setZone z x).ports = s.ports := rfl
@[simp] theorem State.setZone_changedPorts (s : State) (z : ZoneId) (x : Zone) : (s.setZone z x).changedPorts = s.changedPorts := rfl
@[simp] theorem State.setZone_sources (s : State) (z : ZoneId) (x : Zone) : (s.setZone z x).sources = s.sources := rfl
@[simp] theorem State.setZone_zones (s : State) (z : ZoneId) (x : Zone) : (s.setZone z x).zones = s.zones.set z x := rfl
@[simp] theorem State.setZone_waitList (s : State) (z : ZoneId) (x : Zone) : (s.setZone z x).waitList = s.waitList := rfl
@[simp] theorem State.setZone_changedZones (s : State) (z : ZoneId) (x : Zone) : (s.setZone z x).changedZones = s.changedZones := rfl
@[simp] theorem State.setZone_decoders (s : State) (z : ZoneId) (x : Zone) : (s.setZone z x).decoders = s.decoders := rfl
@[simp] theorem State.setZone_changedDecoders (s : State) (z : ZoneId) (x : Zone) : (s.setZone z x).changedDecoders = s.changedDecoders := rfl
@[simp] theorem State.setZone_changedFormats (s : State) (z : ZoneId) (x : Zone) : (s.setZone z x).changedFormats = s.changedFormats := rfl
@[simp] theorem State.setZone_slots (s : State) (z : ZoneId) (x : Zone) : (s.setZone z x).slots = s.slots := rfl
@[simp] theorem State.setZone_changedClips (s : State) (z : ZoneId) (x : Zone) : (s.setZone z x).changedClips = s.changedClips := rfl
@[simp] theorem State.setZone_changedSlots (s : State) (z : ZoneId) (x : Zone) : (s.setZone z x).changedSlots = s.changedSlots := rfl
@[simp] theorem State.setZone_lineRates (s : State) (z : ZoneId) (x : Zone) : (s.setZone z x).lineRates = s.lineRates := rfl
@[simp] theorem State.setZone_ampRates (s : State) (z : ZoneId) (x : Zone) : (s.setZone z x).ampRates = s.ampRates := rfl
@[simp] theorem State.setZone_link (s : State) (z : ZoneId) (x : Zone) : (s.setZone z x).link = s.link := rfl
@[simp] theorem State.setZone_prot (s : State) (z : ZoneId) (x : Zone) : (s.setZone z x).prot = s.prot := rfl
@[simp] theorem State.setZone_changedProt (s : State) (z : ZoneId) (x : Zone) : (s.setZone z x).changedProt = s.changedProt := rfl
@[simp] theorem State.setZone_allRemoved (s : State) (z : ZoneId) (x : Zone) : (s.setZone z x).allRemoved = s.allRemoved := rfl
@[simp] theorem State.setZone_tuner (s : State) (z : ZoneId) (x : Zone) : (s.setZone z x).tuner = s.tuner := rfl
@[simp] theorem State.setZone_stations (s : State) (z : ZoneId) (x : Zone) : (s.setZone z x).stations = s.stations := rfl
@[simp] theorem State.setZone_stationMemory (s : State) (z : ZoneId) (x : Zone) : (s.setZone z x).stationMemory = s.stationMemory := rfl
@[simp] theorem State.setZone_stationData (s : State) (z : ZoneId) (x : Zone) : (s.setZone z x).stationData = s.stationData := rfl
@[simp] theorem State.setZone_control (s : State) (z : ZoneId) (x : Zone) : (s.setZone z x).control = s.control := rfl
@[simp] theorem State.setZone_raised (s : State) (z : ZoneId) (x : Zone) : (s.setZone z x).raised = s.raised := rfl
@[simp] theorem State.setZone_dataOut (s : State) (z : ZoneId) (x : Zone) : (s.setZone z x).dataOut = s.dataOut := rfl
@[simp] theorem State.setZone_freeCount (s : State) (z : ZoneId) (x : Zone) : (s.setZone z x).freeCount = s.freeCount := rfl

/-! ## setDecoder -/

@[simp] theorem State.setDecoder_now (s : State) (d : DecoderId) (x : Decoder) : (s.setDecoder d x).now = s.now := rfl
@[simp] theorem State.setDecoder_pending (s : State) (d : DecoderId) (x : Decoder) : (s.setDecoder d x).pending = s.pending := rfl
@[simp] theorem State.setDecoder_ports (s : State) (d : DecoderId) (x : Decoder) : (s.setDecoder d x).ports = s.ports := rfl
@[simp] theorem State.setDecoder_changedPorts (s : State) (d : DecoderId) (x : Decoder) : (s.setDecoder d x).changedPorts = s.changedPorts := rfl
@[simp] theorem State.setDecoder_sources (s : State) (d : DecoderId) (x : Decoder) : (s.setDecoder d x).sources = s.sources := rfl
@[simp] theorem State.setDecoder_zones (s : State) (d : DecoderId) (x : Decoder) : (s.setDecoder d x).zones = s.zones := rfl
@[simp] theorem State.setDecoder_waitList (s : State) (d : DecoderId) (x : Decoder) : (s.setDecoder d x).waitList = s.waitList := rfl
@[simp] theorem State.setDecoder_changedZones (s : State) (d : DecoderId) (x : Decoder) : (s.setDecoder d x).changedZones = s.changedZones := rfl
@[simp] theorem State.setDecoder_decoders (s : State) (d : DecoderId) (x : Decoder) : (s.setDecoder d x).decoders = s.decoders.set d x := rfl
@[simp] theorem State.setDecoder_changedDecoders (s : State) (d : DecoderId) (x : Decoder) : (s.setDecoder d x).changedDecoders = s.changedDecoders := rfl
@[simp] theorem State.setDecoder_changedFormats (s : State) (d : DecoderId) (x : Decoder) : (s.setDecoder d x).changedFormats = s.changedFormats := rfl
@[simp] theorem State.setDecoder_slots (s : State) (d : DecoderId) (x : Decoder) : (s.setDecoder d x).slots = s.slots := rfl
@[simp] theorem State.setDecoder_changedClips (s : State) (d : DecoderId) (x : Decoder) : (s.setDecoder d x).changedClips = s.changedClips := rfl
@[simp] theorem State.setDecoder_changedSlots (s : State) (d : DecoderId) (x : Decoder) : (s.setDecoder d x).changedSlots = s.changedSlots := rfl
@[simp] theorem State.setDecoder_lineRates (s : State) (d : DecoderId) (x : Decoder) : (s.setDecoder d x).lineRates = s.lineRates := rfl
@[simp] theorem State.setDecoder_ampRates (s : State) (d : DecoderId) (x : Decoder) : (s.setDecoder d x).ampRates = s.ampRates := rfl
@[simp] theorem State.setDecoder_link (s : State) (d : DecoderId) (x : Decoder) : (s.setDecoder d x).link = s.link := rfl
@[simp] theorem State.setDecoder_prot (s : State) (d : DecoderId) (x : Decoder) : (s.setDecoder d x).prot = s.prot := rfl
@[simp] theorem State.setDecoder_changedProt (s : State) (d : DecoderId) (x : Decoder) : (s.setDecoder d x).changedProt = s.changedProt := rfl
@[simp] theorem State.setDecoder_allRemoved (s : State) (d : DecoderId) (x : Decoder) : (s.setDecoder d x).allRemoved = s.allRemoved := rfl
@[simp] theorem State.setDecoder_tuner (s : State) (d : DecoderId) (x : Decoder) : (s.setDecoder d x).tuner = s.tuner := rfl
@[simp] theorem State.setDecoder_stations (s : State) (d : DecoderId) (x : Decoder) : (s.setDecoder d x).stations = s.stations := rfl
@[simp] theorem State.setDecoder_stationMemory (s : State) (d : DecoderId) (x : Decoder) : (s.setDecoder d x).stationMemory = s.stationMemory := rfl
@[simp] theorem State.setDecoder_stationData (s : State) (d : DecoderId) (x : Decoder) : (s.setDecoder d x).stationData = s.stationData := rfl
@[simp] theorem State.setDecoder_control (s : State) (d : DecoderId) (x : Decoder) : (s.setDecoder d x).control = s.control := rfl
@[simp] theorem State.setDecoder_raised (s : State) (d : DecoderId) (x : Decoder) : (s.setDecoder d x).raised = s.raised := rfl
@[simp] theorem State.setDecoder_dataOut (s : State) (d : DecoderId) (x : Decoder) : (s.setDecoder d x).dataOut = s.dataOut := rfl
@[simp] theorem State.setDecoder_freeCount (s : State) (d : DecoderId) (x : Decoder) : (s.setDecoder d x).freeCount = s.freeCount := rfl

/-! ## setSlot -/

@[simp] theorem State.setSlot_now (s : State) (i : SlotId) (x : Slot) : (s.setSlot i x).now = s.now := rfl
@[simp] theorem State.setSlot_pending (s : State) (i : SlotId) (x : Slot) : (s.setSlot i x).pending = s.pending := rfl
@[simp] theorem State.setSlot_ports (s : State) (i : SlotId) (x : Slot) : (s.setSlot i x).ports = s.ports := rfl
@[simp] theorem State.setSlot_changedPorts (s : State) (i : SlotId) (x : Slot) : (s.setSlot i x).changedPorts = s.changedPorts := rfl
@[simp] theorem State.setSlot_sources (s : State) (i : SlotId) (x : Slot) : (s.setSlot i x).sources = s.sources := rfl
@[simp] theorem State.setSlot_zones (s : State) (i : SlotId) (x : Slot) : (s.setSlot i x).zones = s.zones := rfl
@[simp] theorem State.setSlot_waitList (s : State) (i : SlotId) (x : Slot) : (s.setSlot i x).waitList = s.waitList := rfl
@[simp] theorem State.setSlot_changedZones (s : State) (i : SlotId) (x : Slot) : (s.setSlot i x).changedZones = s.changedZones := rfl
@[simp] theorem State.setSlot_decoders (s : State) (i : SlotId) (x : Slot) : (s.setSlot i x).decoders = s.decoders := rfl
@[simp] theorem State.setSlot_changedDecoders (s : State) (i : SlotId) (x : Slot) : (s.setSlot i x).changedDecoders = s.changedDecoders := rfl
@[simp] theorem State.setSlot_changedFormats (s : State) (i : SlotId) (x : Slot) : (s.setSlot i x).changedFormats = s.changedFormats := rfl
@[simp] theorem State.setSlot_slots (s : State) (i : SlotId) (x : Slot) : (s.setSlot i x).slots = s.slots.set i x := rfl
@[simp] theorem State.setSlot_changedClips (s : State) (i : SlotId) (x : Slot) : (s.setSlot i x).changedClips = s.changedClips := rfl
@[simp] theorem State.setSlot_changedSlots (s : State) (i : SlotId) (x : Slot) : (s.setSlot i x).changedSlots = s.changedSlots := rfl
@[simp] theorem State.setSlot_lineRates (s : State) (i : SlotId) (x : Slot) : (s.setSlot i x).lineRates = s.lineRates := rfl
@[simp] theorem State.setSlot_ampRates (s : State) (i : SlotId) (x : Slot) : (s.setSlot i x).ampRates = s.ampRates := rfl
@[simp] theorem State.setSlot_link (s : State) (i : SlotId) (x : Slot) : (s.setSlot i x).link = s.link := rfl
@[simp] theorem State.setSlot_prot (s : State) (i : SlotId) (x : Slot) : (s.setSlot i x).prot = s.prot := rfl
@[simp] theorem State.setSlot_changedProt (s : State) (i : SlotId) (x : Slot) : (s.setSlot i x).changedProt = s.changedProt := rfl
@[simp] theorem State.setSlot_allRemoved (s : State) (i : SlotId) (x : Slot) : (s.setSlot i x).allRemoved = s.allRemoved := rfl
@[simp] theorem State.setSlot_tuner (s : State) (i : SlotId) (x : Slot) : (s.setSlot i x).tuner = s.tuner := rfl
@[simp] theorem State.setSlot_stations (s : State) (i : SlotId) (x : Slot) : (s.setSlot i x).stations = s.stations := rfl
@[simp] theorem State.setSlot_stationMemory (s : State) (i : SlotId) (x : Slot) : (s.setSlot i x).stationMemory = s.stationMemory := rfl
@[simp] theorem State.setSlot_stationData (s : State) (i : SlotId) (x : Slot) : (s.setSlot i x).stationData = s.stationData := rfl
@[simp] theorem State.setSlot_control (s : State) (i : SlotId) (x : Slot) : (s.setSlot i x).control = s.control := rfl
@[simp] theorem State.setSlot_raised (s : State) (i : SlotId) (x : Slot) : (s.setSlot i x).raised = s.raised := rfl
@[simp] theorem State.setSlot_dataOut (s : State) (i : SlotId) (x : Slot) : (s.setSlot i x).dataOut = s.dataOut := rfl
@[simp] theorem State.setSlot_freeCount (s : State) (i : SlotId) (x : Slot) : (s.setSlot i x).freeCount = s.freeCount := rfl

/-! ## setLink -/

@[simp] theorem State.setLink_now (s : State) (x : Link) : (s.setLink x).now = s.now := rfl
@[simp] theorem State.setLink_pending (s : State) (x : Link) : (s.setLink x).pending = s.pending := rfl
@[simp] theorem State.setLink_ports (s : State) (x : Link) : (s.setLink x).ports = s.ports := rfl
@[simp] theorem State.setLink_changedPorts (s : State) (x : Link) : (s.setLink x).changedPorts = s.changedPorts := rfl
@[simp] theorem State.setLink_sources (s : State) (x : Link) : (s.setLink x).sources = s.sources := rfl
@[simp] theorem State.setLink_zones (s : State) (x : Link) : (s.setLink x).zones = s.zones := rfl
@[simp] theorem State.setLink_waitList (s : State) (x : Link) : (s.setLink x).waitList = s.waitList := rfl
@[simp] theorem State.setLink_changedZones (s : State) (x : Link) : (s.setLink x).changedZones = s.changedZones := rfl
@[simp] theorem State.setLink_decoders (s : State) (x : Link) : (s.setLink x).decoders = s.decoders := rfl
@[simp] theorem State.setLink_changedDecoders (s : State) (x : Link) : (s.setLink x).changedDecoders = s.changedDecoders := rfl
@[simp] theorem State.setLink_changedFormats (s : State) (x : Link) : (s.setLink x).changedFormats = s.changedFormats := rfl
@[simp] theorem State.setLink_slots (s : State) (x : Link) : (s.setLink x).slots = s.slots := rfl
@[simp] theorem State.setLink_changedClips (s : State) (x : Link) : (s.setLink x).changedClips = s.changedClips := rfl
@[simp] theorem State.setLink_changedSlots (s : State) (x : Link) : (s.setLink x).changedSlots = s.changedSlots := rfl
@[simp] theorem State.setLink_lineRates (s : State) (x : Link) : (s.setLink x).lineRates = s.lineRates := rfl
@[simp] theorem State.setLink_ampRates (s : State) (x : Link) : (s.setLink x).ampRates = s.ampRates := rfl
@[simp] theorem State.setLink_link (s : State) (x : Link) : (s.setLink x).link = x := rfl
@[simp] theorem State.setLink_prot (s : State) (x : Link) : (s.setLink x).prot = s.prot := rfl
@[simp] theorem State.setLink_changedProt (s : State) (x : Link) : (s.setLink x).changedProt = s.changedProt := rfl
@[simp] theorem State.setLink_allRemoved (s : State) (x : Link) : (s.setLink x).allRemoved = s.allRemoved := rfl
@[simp] theorem State.setLink_tuner (s : State) (x : Link) : (s.setLink x).tuner = s.tuner := rfl
@[simp] theorem State.setLink_stations (s : State) (x : Link) : (s.setLink x).stations = s.stations := rfl
@[simp] theorem State.setLink_stationMemory (s : State) (x : Link) : (s.setLink x).stationMemory = s.stationMemory := rfl
@[simp] theorem State.setLink_stationData (s : State) (x : Link) : (s.setLink x).stationData = s.stationData := rfl
@[simp] theorem State.setLink_control (s : State) (x : Link) : (s.setLink x).control = s.control := rfl
@[simp] theorem State.setLink_raised (s : State) (x : Link) : (s.setLink x).raised = s.raised := rfl
@[simp] theorem State.setLink_dataOut (s : State) (x : Link) : (s.setLink x).dataOut = s.dataOut := rfl
@[simp] theorem State.setLink_freeCount (s : State) (x : Link) : (s.setLink x).freeCount = s.freeCount := rfl

/-! ## setEntry -/

@[simp] theorem State.setEntry_now (s : State) (k : EntryId) (x : Option Entry) : (s.setEntry k x).now = s.now := rfl
@[simp] theorem State.setEntry_pending (s : State) (k : EntryId) (x : Option Entry) : (s.setEntry k x).pending = s.pending := rfl
@[simp] theorem State.setEntry_ports (s : State) (k : EntryId) (x : Option Entry) : (s.setEntry k x).ports = s.ports := rfl
@[simp] theorem State.setEntry_changedPorts (s : State) (k : EntryId) (x : Option Entry) : (s.setEntry k x).changedPorts = s.changedPorts := rfl
@[simp] theorem State.setEntry_sources (s : State) (k : EntryId) (x : Option Entry) : (s.setEntry k x).sources = s.sources := rfl
@[simp] theorem State.setEntry_zones (s : State) (k : EntryId) (x : Option Entry) : (s.setEntry k x).zones = s.zones := rfl
@[simp] theorem State.setEntry_waitList (s : State) (k : EntryId) (x : Option Entry) : (s.setEntry k x).waitList = s.waitList := rfl
@[simp] theorem State.setEntry_changedZones (s : State) (k : EntryId) (x : Option Entry) : (s.setEntry k x).changedZones = s.changedZones := rfl
@[simp] theorem State.setEntry_decoders (s : State) (k : EntryId) (x : Option Entry) : (s.setEntry k x).decoders = s.decoders := rfl
@[simp] theorem State.setEntry_changedDecoders (s : State) (k : EntryId) (x : Option Entry) : (s.setEntry k x).changedDecoders = s.changedDecoders := rfl
@[simp] theorem State.setEntry_changedFormats (s : State) (k : EntryId) (x : Option Entry) : (s.setEntry k x).changedFormats = s.changedFormats := rfl
@[simp] theorem State.setEntry_slots (s : State) (k : EntryId) (x : Option Entry) : (s.setEntry k x).slots = s.slots := rfl
@[simp] theorem State.setEntry_changedClips (s : State) (k : EntryId) (x : Option Entry) : (s.setEntry k x).changedClips = s.changedClips := rfl
@[simp] theorem State.setEntry_changedSlots (s : State) (k : EntryId) (x : Option Entry) : (s.setEntry k x).changedSlots = s.changedSlots := rfl
@[simp] theorem State.setEntry_lineRates (s : State) (k : EntryId) (x : Option Entry) : (s.setEntry k x).lineRates = s.lineRates := rfl
@[simp] theorem State.setEntry_ampRates (s : State) (k : EntryId) (x : Option Entry) : (s.setEntry k x).ampRates = s.ampRates := rfl
@[simp] theorem State.setEntry_link (s : State) (k : EntryId) (x : Option Entry) : (s.setEntry k x).link = { s.link with table := s.link.table.set k x } := rfl
@[simp] theorem State.setEntry_prot (s : State) (k : EntryId) (x : Option Entry) : (s.setEntry k x).prot = s.prot := rfl
@[simp] theorem State.setEntry_changedProt (s : State) (k : EntryId) (x : Option Entry) : (s.setEntry k x).changedProt = s.changedProt := rfl
@[simp] theorem State.setEntry_allRemoved (s : State) (k : EntryId) (x : Option Entry) : (s.setEntry k x).allRemoved = s.allRemoved := rfl
@[simp] theorem State.setEntry_tuner (s : State) (k : EntryId) (x : Option Entry) : (s.setEntry k x).tuner = s.tuner := rfl
@[simp] theorem State.setEntry_stations (s : State) (k : EntryId) (x : Option Entry) : (s.setEntry k x).stations = s.stations := rfl
@[simp] theorem State.setEntry_stationMemory (s : State) (k : EntryId) (x : Option Entry) : (s.setEntry k x).stationMemory = s.stationMemory := rfl
@[simp] theorem State.setEntry_stationData (s : State) (k : EntryId) (x : Option Entry) : (s.setEntry k x).stationData = s.stationData := rfl
@[simp] theorem State.setEntry_control (s : State) (k : EntryId) (x : Option Entry) : (s.setEntry k x).control = s.control := rfl
@[simp] theorem State.setEntry_raised (s : State) (k : EntryId) (x : Option Entry) : (s.setEntry k x).raised = s.raised := rfl
@[simp] theorem State.setEntry_dataOut (s : State) (k : EntryId) (x : Option Entry) : (s.setEntry k x).dataOut = s.dataOut := rfl
@[simp] theorem State.setEntry_freeCount (s : State) (k : EntryId) (x : Option Entry) : (s.setEntry k x).freeCount = s.freeCount := rfl

/-! ## setProtModule -/

@[simp] theorem State.setProtModule_now (s : State) (k : EntryId) (x : Option ProtModule) : (s.setProtModule k x).now = s.now := rfl
@[simp] theorem State.setProtModule_pending (s : State) (k : EntryId) (x : Option ProtModule) : (s.setProtModule k x).pending = s.pending := rfl
@[simp] theorem State.setProtModule_ports (s : State) (k : EntryId) (x : Option ProtModule) : (s.setProtModule k x).ports = s.ports := rfl
@[simp] theorem State.setProtModule_changedPorts (s : State) (k : EntryId) (x : Option ProtModule) : (s.setProtModule k x).changedPorts = s.changedPorts := rfl
@[simp] theorem State.setProtModule_sources (s : State) (k : EntryId) (x : Option ProtModule) : (s.setProtModule k x).sources = s.sources := rfl
@[simp] theorem State.setProtModule_zones (s : State) (k : EntryId) (x : Option ProtModule) : (s.setProtModule k x).zones = s.zones := rfl
@[simp] theorem State.setProtModule_waitList (s : State) (k : EntryId) (x : Option ProtModule) : (s.setProtModule k x).waitList = s.waitList := rfl
@[simp] theorem State.setProtModule_changedZones (s : State) (k : EntryId) (x : Option ProtModule) : (s.setProtModule k x).changedZones = s.changedZones := rfl
@[simp] theorem State.setProtModule_decoders (s : State) (k : EntryId) (x : Option ProtModule) : (s.setProtModule k x).decoders = s.decoders := rfl
@[simp] theorem State.setProtModule_changedDecoders (s : State) (k : EntryId) (x : Option ProtModule) : (s.setProtModule k x).changedDecoders = s.changedDecoders := rfl
@[simp] theorem State.setProtModule_changedFormats (s : State) (k : EntryId) (x : Option ProtModule) : (s.setProtModule k x).changedFormats = s.changedFormats := rfl
@[simp] theorem State.setProtModule_slots (s : State) (k : EntryId) (x : Option ProtModule) : (s.setProtModule k x).slots = s.slots := rfl
@[simp] theorem State.setProtModule_changedClips (s : State) (k : EntryId) (x : Option ProtModule) : (s.setProtModule k x).changedClips = s.changedClips := rfl
@[simp] theorem State.setProtModule_changedSlots (s : State) (k : EntryId) (x : Option ProtModule) : (s.setProtModule k x).changedSlots = s.changedSlots := rfl
@[simp] theorem State.setProtModule_lineRates (s : State) (k : EntryId) (x : Option ProtModule) : (s.setProtModule k x).lineRates = s.lineRates := rfl
@[simp] theorem State.setProtModule_ampRates (s : State) (k : EntryId) (x : Option ProtModule) : (s.setProtModule k x).ampRates = s.ampRates := rfl
@[simp] theorem State.setProtModule_link (s : State) (k : EntryId) (x : Option ProtModule) : (s.setProtModule k x).link = s.link := rfl
@[simp] theorem State.setProtModule_prot (s : State) (k : EntryId) (x : Option ProtModule) : (s.setProtModule k x).prot = s.prot.set k x := rfl
@[simp] theorem State.setProtModule_changedProt (s : State) (k : EntryId) (x : Option ProtModule) : (s.setProtModule k x).changedProt = s.changedProt := rfl
@[simp] theorem State.setProtModule_allRemoved (s : State) (k : EntryId) (x : Option ProtModule) : (s.setProtModule k x).allRemoved = s.allRemoved := rfl
@[simp] theorem State.setProtModule_tuner (s : State) (k : EntryId) (x : Option ProtModule) : (s.setProtModule k x).tuner = s.tuner := rfl
@[simp] theorem State.setProtModule_stations (s : State) (k : EntryId) (x : Option ProtModule) : (s.setProtModule k x).stations = s.stations := rfl
@[simp] theorem State.setProtModule_stationMemory (s : State) (k : EntryId) (x : Option ProtModule) : (s.setProtModule k x).stationMemory = s.stationMemory := rfl
@[simp] theorem State.setProtModule_stationData (s : State) (k : EntryId) (x : Option ProtModule) : (s.setProtModule k x).stationData = s.stationData := rfl
@[simp] theorem State.setProtModule_control (s : State) (k : EntryId) (x : Option ProtModule) : (s.setProtModule k x).control = s.control := rfl
@[simp] theorem State.setProtModule_raised (s : State) (k : EntryId) (x : Option ProtModule) : (s.setProtModule k x).raised = s.raised := rfl
@[simp] theorem State.setProtModule_dataOut (s : State) (k : EntryId) (x : Option ProtModule) : (s.setProtModule k x).dataOut = s.dataOut := rfl
@[simp] theorem State.setProtModule_freeCount (s : State) (k : EntryId) (x : Option ProtModule) : (s.setProtModule k x).freeCount = s.freeCount := rfl

/-! ## setTuner -/

@[simp] theorem State.setTuner_now (s : State) (x : Tuner) : (s.setTuner x).now = s.now := rfl
@[simp] theorem State.setTuner_pending (s : State) (x : Tuner) : (s.setTuner x).pending = s.pending := rfl
@[simp] theorem State.setTuner_ports (s : State) (x : Tuner) : (s.setTuner x).ports = s.ports := rfl
@[simp] theorem State.setTuner_changedPorts (s : State) (x : Tuner) : (s.setTuner x).changedPorts = s.changedPorts := rfl
@[simp] theorem State.setTuner_sources (s : State) (x : Tuner) : (s.setTuner x).sources = s.sources := rfl
@[simp] theorem State.setTuner_zones (s : State) (x : Tuner) : (s.setTuner x).zones = s.zones := rfl
@[simp] theorem State.setTuner_waitList (s : State) (x : Tuner) : (s.setTuner x).waitList = s.waitList := rfl
@[simp] theorem State.setTuner_changedZones (s : State) (x : Tuner) : (s.setTuner x).changedZones = s.changedZones := rfl
@[simp] theorem State.setTuner_decoders (s : State) (x : Tuner) : (s.setTuner x).decoders = s.decoders := rfl
@[simp] theorem State.setTuner_changedDecoders (s : State) (x : Tuner) : (s.setTuner x).changedDecoders = s.changedDecoders := rfl
@[simp] theorem State.setTuner_changedFormats (s : State) (x : Tuner) : (s.setTuner x).changedFormats = s.changedFormats := rfl
@[simp] theorem State.setTuner_slots (s : State) (x : Tuner) : (s.setTuner x).slots = s.slots := rfl
@[simp] theorem State.setTuner_changedClips (s : State) (x : Tuner) : (s.setTuner x).changedClips = s.changedClips := rfl
@[simp] theorem State.setTuner_changedSlots (s : State) (x : Tuner) : (s.setTuner x).changedSlots = s.changedSlots := rfl
@[simp] theorem State.setTuner_lineRates (s : State) (x : Tuner) : (s.setTuner x).lineRates = s.lineRates := rfl
@[simp] theorem State.setTuner_ampRates (s : State) (x : Tuner) : (s.setTuner x).ampRates = s.ampRates := rfl
@[simp] theorem State.setTuner_link (s : State) (x : Tuner) : (s.setTuner x).link = s.link := rfl
@[simp] theorem State.setTuner_prot (s : State) (x : Tuner) : (s.setTuner x).prot = s.prot := rfl
@[simp] theorem State.setTuner_changedProt (s : State) (x : Tuner) : (s.setTuner x).changedProt = s.changedProt := rfl
@[simp] theorem State.setTuner_allRemoved (s : State) (x : Tuner) : (s.setTuner x).allRemoved = s.allRemoved := rfl
@[simp] theorem State.setTuner_tuner (s : State) (x : Tuner) : (s.setTuner x).tuner = x := rfl
@[simp] theorem State.setTuner_stations (s : State) (x : Tuner) : (s.setTuner x).stations = s.stations := rfl
@[simp] theorem State.setTuner_stationMemory (s : State) (x : Tuner) : (s.setTuner x).stationMemory = s.stationMemory := rfl
@[simp] theorem State.setTuner_stationData (s : State) (x : Tuner) : (s.setTuner x).stationData = s.stationData := rfl
@[simp] theorem State.setTuner_control (s : State) (x : Tuner) : (s.setTuner x).control = s.control := rfl
@[simp] theorem State.setTuner_raised (s : State) (x : Tuner) : (s.setTuner x).raised = s.raised := rfl
@[simp] theorem State.setTuner_dataOut (s : State) (x : Tuner) : (s.setTuner x).dataOut = s.dataOut := rfl
@[simp] theorem State.setTuner_freeCount (s : State) (x : Tuner) : (s.setTuner x).freeCount = s.freeCount := rfl

/-! ## setStationData -/

@[simp] theorem State.setStationData_now (s : State) (x : StationData) : (s.setStationData x).now = s.now := rfl
@[simp] theorem State.setStationData_pending (s : State) (x : StationData) : (s.setStationData x).pending = s.pending := rfl
@[simp] theorem State.setStationData_ports (s : State) (x : StationData) : (s.setStationData x).ports = s.ports := rfl
@[simp] theorem State.setStationData_changedPorts (s : State) (x : StationData) : (s.setStationData x).changedPorts = s.changedPorts := rfl
@[simp] theorem State.setStationData_sources (s : State) (x : StationData) : (s.setStationData x).sources = s.sources := rfl
@[simp] theorem State.setStationData_zones (s : State) (x : StationData) : (s.setStationData x).zones = s.zones := rfl
@[simp] theorem State.setStationData_waitList (s : State) (x : StationData) : (s.setStationData x).waitList = s.waitList := rfl
@[simp] theorem State.setStationData_changedZones (s : State) (x : StationData) : (s.setStationData x).changedZones = s.changedZones := rfl
@[simp] theorem State.setStationData_decoders (s : State) (x : StationData) : (s.setStationData x).decoders = s.decoders := rfl
@[simp] theorem State.setStationData_changedDecoders (s : State) (x : StationData) : (s.setStationData x).changedDecoders = s.changedDecoders := rfl
@[simp] theorem State.setStationData_changedFormats (s : State) (x : StationData) : (s.setStationData x).changedFormats = s.changedFormats := rfl
@[simp] theorem State.setStationData_slots (s : State) (x : StationData) : (s.setStationData x).slots = s.slots := rfl
@[simp] theorem State.setStationData_changedClips (s : State) (x : StationData) : (s.setStationData x).changedClips = s.changedClips := rfl
@[simp] theorem State.setStationData_changedSlots (s : State) (x : StationData) : (s.setStationData x).changedSlots = s.changedSlots := rfl
@[simp] theorem State.setStationData_lineRates (s : State) (x : StationData) : (s.setStationData x).lineRates = s.lineRates := rfl
@[simp] theorem State.setStationData_ampRates (s : State) (x : StationData) : (s.setStationData x).ampRates = s.ampRates := rfl
@[simp] theorem State.setStationData_link (s : State) (x : StationData) : (s.setStationData x).link = s.link := rfl
@[simp] theorem State.setStationData_prot (s : State) (x : StationData) : (s.setStationData x).prot = s.prot := rfl
@[simp] theorem State.setStationData_changedProt (s : State) (x : StationData) : (s.setStationData x).changedProt = s.changedProt := rfl
@[simp] theorem State.setStationData_allRemoved (s : State) (x : StationData) : (s.setStationData x).allRemoved = s.allRemoved := rfl
@[simp] theorem State.setStationData_tuner (s : State) (x : StationData) : (s.setStationData x).tuner = s.tuner := rfl
@[simp] theorem State.setStationData_stations (s : State) (x : StationData) : (s.setStationData x).stations = s.stations := rfl
@[simp] theorem State.setStationData_stationMemory (s : State) (x : StationData) : (s.setStationData x).stationMemory = s.stationMemory := rfl
@[simp] theorem State.setStationData_stationData (s : State) (x : StationData) : (s.setStationData x).stationData = x := rfl
@[simp] theorem State.setStationData_control (s : State) (x : StationData) : (s.setStationData x).control = s.control := rfl
@[simp] theorem State.setStationData_raised (s : State) (x : StationData) : (s.setStationData x).raised = s.raised := rfl
@[simp] theorem State.setStationData_dataOut (s : State) (x : StationData) : (s.setStationData x).dataOut = s.dataOut := rfl
@[simp] theorem State.setStationData_freeCount (s : State) (x : StationData) : (s.setStationData x).freeCount = s.freeCount := rfl

/-! ## setStationMemory -/

@[simp] theorem State.setStationMemory_now (s : State) (x : StationMemory) : (s.setStationMemory x).now = s.now := rfl
@[simp] theorem State.setStationMemory_pending (s : State) (x : StationMemory) : (s.setStationMemory x).pending = s.pending := rfl
@[simp] theorem State.setStationMemory_ports (s : State) (x : StationMemory) : (s.setStationMemory x).ports = s.ports := rfl
@[simp] theorem State.setStationMemory_changedPorts (s : State) (x : StationMemory) : (s.setStationMemory x).changedPorts = s.changedPorts := rfl
@[simp] theorem State.setStationMemory_sources (s : State) (x : StationMemory) : (s.setStationMemory x).sources = s.sources := rfl
@[simp] theorem State.setStationMemory_zones (s : State) (x : StationMemory) : (s.setStationMemory x).zones = s.zones := rfl
@[simp] theorem State.setStationMemory_waitList (s : State) (x : StationMemory) : (s.setStationMemory x).waitList = s.waitList := rfl
@[simp] theorem State.setStationMemory_changedZones (s : State) (x : StationMemory) : (s.setStationMemory x).changedZones = s.changedZones := rfl
@[simp] theorem State.setStationMemory_decoders (s : State) (x : StationMemory) : (s.setStationMemory x).decoders = s.decoders := rfl
@[simp] theorem State.setStationMemory_changedDecoders (s : State) (x : StationMemory) : (s.setStationMemory x).changedDecoders = s.changedDecoders := rfl
@[simp] theorem State.setStationMemory_changedFormats (s : State) (x : StationMemory) : (s.setStationMemory x).changedFormats = s.changedFormats := rfl
@[simp] theorem State.setStationMemory_slots (s : State) (x : StationMemory) : (s.setStationMemory x).slots = s.slots := rfl
@[simp] theorem State.setStationMemory_changedClips (s : State) (x : StationMemory) : (s.setStationMemory x).changedClips = s.changedClips := rfl
@[simp] theorem State.setStationMemory_changedSlots (s : State) (x : StationMemory) : (s.setStationMemory x).changedSlots = s.changedSlots := rfl
@[simp] theorem State.setStationMemory_lineRates (s : State) (x : StationMemory) : (s.setStationMemory x).lineRates = s.lineRates := rfl
@[simp] theorem State.setStationMemory_ampRates (s : State) (x : StationMemory) : (s.setStationMemory x).ampRates = s.ampRates := rfl
@[simp] theorem State.setStationMemory_link (s : State) (x : StationMemory) : (s.setStationMemory x).link = s.link := rfl
@[simp] theorem State.setStationMemory_prot (s : State) (x : StationMemory) : (s.setStationMemory x).prot = s.prot := rfl
@[simp] theorem State.setStationMemory_changedProt (s : State) (x : StationMemory) : (s.setStationMemory x).changedProt = s.changedProt := rfl
@[simp] theorem State.setStationMemory_allRemoved (s : State) (x : StationMemory) : (s.setStationMemory x).allRemoved = s.allRemoved := rfl
@[simp] theorem State.setStationMemory_tuner (s : State) (x : StationMemory) : (s.setStationMemory x).tuner = s.tuner := rfl
@[simp] theorem State.setStationMemory_stations (s : State) (x : StationMemory) : (s.setStationMemory x).stations = s.stations := rfl
@[simp] theorem State.setStationMemory_stationMemory (s : State) (x : StationMemory) : (s.setStationMemory x).stationMemory = x := rfl
@[simp] theorem State.setStationMemory_stationData (s : State) (x : StationMemory) : (s.setStationMemory x).stationData = s.stationData := rfl
@[simp] theorem State.setStationMemory_control (s : State) (x : StationMemory) : (s.setStationMemory x).control = s.control := rfl
@[simp] theorem State.setStationMemory_raised (s : State) (x : StationMemory) : (s.setStationMemory x).raised = s.raised := rfl
@[simp] theorem State.setStationMemory_dataOut (s : State) (x : StationMemory) : (s.setStationMemory x).dataOut = s.dataOut := rfl
@[simp] theorem State.setStationMemory_freeCount (s : State) (x : StationMemory) : (s.setStationMemory x).freeCount = s.freeCount := rfl

/-! ## setControl -/

@[simp] theorem State.setControl_now (s : State) (x : Control) : (s.setControl x).now = s.now := rfl
@[simp] theorem State.setControl_pending (s : State) (x : Control) : (s.setControl x).pending = s.pending := rfl
@[simp] theorem State.setControl_ports (s : State) (x : Control) : (s.setControl x).ports = s.ports := rfl
@[simp] theorem State.setControl_changedPorts (s : State) (x : Control) : (s.setControl x).changedPorts = s.changedPorts := rfl
@[simp] theorem State.setControl_sources (s : State) (x : Control) : (s.setControl x).sources = s.sources := rfl
@[simp] theorem State.setControl_zones (s : State) (x : Control) : (s.setControl x).zones = s.zones := rfl
@[simp] theorem State.setControl_waitList (s : State) (x : Control) : (s.setControl x).waitList = s.waitList := rfl
@[simp] theorem State.setControl_changedZones (s : State) (x : Control) : (s.setControl x).changedZones = s.changedZones := rfl
@[simp] theorem State.setControl_decoders (s : State) (x : Control) : (s.setControl x).decoders = s.decoders := rfl
@[simp] theorem State.setControl_changedDecoders (s : State) (x : Control) : (s.setControl x).changedDecoders = s.changedDecoders := rfl
@[simp] theorem State.setControl_changedFormats (s : State) (x : Control) : (s.setControl x).changedFormats = s.changedFormats := rfl
@[simp] theorem State.setControl_slots (s : State) (x : Control) : (s.setControl x).slots = s.slots := rfl
@[simp] theorem State.setControl_changedClips (s : State) (x : Control) : (s.setControl x).changedClips = s.changedClips := rfl
@[simp] theorem State.setControl_changedSlots (s : State) (x : Control) : (s.setControl x).changedSlots = s.changedSlots := rfl
@[simp] theorem State.setControl_lineRates (s : State) (x : Control) : (s.setControl x).lineRates = s.lineRates := rfl
@[simp] theorem State.setControl_ampRates (s : State) (x : Control) : (s.setControl x).ampRates = s.ampRates := rfl
@[simp] theorem State.setControl_link (s : State) (x : Control) : (s.setControl x).link = s.link := rfl
@[simp] theorem State.setControl_prot (s : State) (x : Control) : (s.setControl x).prot = s.prot := rfl
@[simp] theorem State.setControl_changedProt (s : State) (x : Control) : (s.setControl x).changedProt = s.changedProt := rfl
@[simp] theorem State.setControl_allRemoved (s : State) (x : Control) : (s.setControl x).allRemoved = s.allRemoved := rfl
@[simp] theorem State.setControl_tuner (s : State) (x : Control) : (s.setControl x).tuner = s.tuner := rfl
@[simp] theorem State.setControl_stations (s : State) (x : Control) : (s.setControl x).stations = s.stations := rfl
@[simp] theorem State.setControl_stationMemory (s : State) (x : Control) : (s.setControl x).stationMemory = s.stationMemory := rfl
@[simp] theorem State.setControl_stationData (s : State) (x : Control) : (s.setControl x).stationData = s.stationData := rfl
@[simp] theorem State.setControl_control (s : State) (x : Control) : (s.setControl x).control = x := rfl
@[simp] theorem State.setControl_raised (s : State) (x : Control) : (s.setControl x).raised = s.raised := rfl
@[simp] theorem State.setControl_dataOut (s : State) (x : Control) : (s.setControl x).dataOut = s.dataOut := rfl
@[simp] theorem State.setControl_freeCount (s : State) (x : Control) : (s.setControl x).freeCount = s.freeCount := rfl

/-! ## raise -/

@[simp] theorem State.raise_now (s : State) (k : NoticeKind) : (s.raise k).now = s.now := rfl
@[simp] theorem State.raise_pending (s : State) (k : NoticeKind) : (s.raise k).pending = s.pending := rfl
@[simp] theorem State.raise_ports (s : State) (k : NoticeKind) : (s.raise k).ports = s.ports := rfl
@[simp] theorem State.raise_changedPorts (s : State) (k : NoticeKind) : (s.raise k).changedPorts = s.changedPorts := rfl
@[simp] theorem State.raise_sources (s : State) (k : NoticeKind) : (s.raise k).sources = s.sources := rfl
@[simp] theorem State.raise_zones (s : State) (k : NoticeKind) : (s.raise k).zones = s.zones := rfl
@[simp] theorem State.raise_waitList (s : State) (k : NoticeKind) : (s.raise k).waitList = s.waitList := rfl
@[simp] theorem State.raise_changedZones (s : State) (k : NoticeKind) : (s.raise k).changedZones = s.changedZones := rfl
@[simp] theorem State.raise_decoders (s : State) (k : NoticeKind) : (s.raise k).decoders = s.decoders := rfl
@[simp] theorem State.raise_changedDecoders (s : State) (k : NoticeKind) : (s.raise k).changedDecoders = s.changedDecoders := rfl
@[simp] theorem State.raise_changedFormats (s : State) (k : NoticeKind) : (s.raise k).changedFormats = s.changedFormats := rfl
@[simp] theorem State.raise_slots (s : State) (k : NoticeKind) : (s.raise k).slots = s.slots := rfl
@[simp] theorem State.raise_changedClips (s : State) (k : NoticeKind) : (s.raise k).changedClips = s.changedClips := rfl
@[simp] theorem State.raise_changedSlots (s : State) (k : NoticeKind) : (s.raise k).changedSlots = s.changedSlots := rfl
@[simp] theorem State.raise_lineRates (s : State) (k : NoticeKind) : (s.raise k).lineRates = s.lineRates := rfl
@[simp] theorem State.raise_ampRates (s : State) (k : NoticeKind) : (s.raise k).ampRates = s.ampRates := rfl
@[simp] theorem State.raise_link (s : State) (k : NoticeKind) : (s.raise k).link = s.link := rfl
@[simp] theorem State.raise_prot (s : State) (k : NoticeKind) : (s.raise k).prot = s.prot := rfl
@[simp] theorem State.raise_changedProt (s : State) (k : NoticeKind) : (s.raise k).changedProt = s.changedProt := rfl
@[simp] theorem State.raise_allRemoved (s : State) (k : NoticeKind) : (s.raise k).allRemoved = s.allRemoved := rfl
@[simp] theorem State.raise_tuner (s : State) (k : NoticeKind) : (s.raise k).tuner = s.tuner := rfl
@[simp] theorem State.raise_stations (s : State) (k : NoticeKind) : (s.raise k).stations = s.stations := rfl
@[simp] theorem State.raise_stationMemory (s : State) (k : NoticeKind) : (s.raise k).stationMemory = s.stationMemory := rfl
@[simp] theorem State.raise_stationData (s : State) (k : NoticeKind) : (s.raise k).stationData = s.stationData := rfl
@[simp] theorem State.raise_control (s : State) (k : NoticeKind) : (s.raise k).control = s.control := rfl
@[simp] theorem State.raise_raised (s : State) (k : NoticeKind) : (s.raise k).raised = s.raised.set k.number true := rfl
@[simp] theorem State.raise_dataOut (s : State) (k : NoticeKind) : (s.raise k).dataOut = s.dataOut := rfl
@[simp] theorem State.raise_freeCount (s : State) (k : NoticeKind) : (s.raise k).freeCount = s.freeCount := rfl

/-! ## reach -/

@[simp] theorem State.reach_now (s : State) (t d : Nat) : (s.reach t d).now = max s.now (t + d) := rfl
@[simp] theorem State.reach_pending (s : State) (t d : Nat) : (s.reach t d).pending = s.pending := rfl
@[simp] theorem State.reach_ports (s : State) (t d : Nat) : (s.reach t d).ports = s.ports := rfl
@[simp] theorem State.reach_changedPorts (s : State) (t d : Nat) : (s.reach t d).changedPorts = s.changedPorts := rfl
@[simp] theorem State.reach_sources (s : State) (t d : Nat) : (s.reach t d).sources = s.sources := rfl
@[simp] theorem State.reach_zones (s : State) (t d : Nat) : (s.reach t d).zones = s.zones := rfl
@[simp] theorem State.reach_waitList (s : State) (t d : Nat) : (s.reach t d).waitList = s.waitList := rfl
@[simp] theorem State.reach_changedZones (s : State) (t d : Nat) : (s.reach t d).changedZones = s.changedZones := rfl
@[simp] theorem State.reach_decoders (s : State) (t d : Nat) : (s.reach t d).decoders = s.decoders := rfl
@[simp] theorem State.reach_changedDecoders (s : State) (t d : Nat) : (s.reach t d).changedDecoders = s.changedDecoders := rfl
@[simp] theorem State.reach_changedFormats (s : State) (t d : Nat) : (s.reach t d).changedFormats = s.changedFormats := rfl
@[simp] theorem State.reach_slots (s : State) (t d : Nat) : (s.reach t d).slots = s.slots := rfl
@[simp] theorem State.reach_changedClips (s : State) (t d : Nat) : (s.reach t d).changedClips = s.changedClips := rfl
@[simp] theorem State.reach_changedSlots (s : State) (t d : Nat) : (s.reach t d).changedSlots = s.changedSlots := rfl
@[simp] theorem State.reach_lineRates (s : State) (t d : Nat) : (s.reach t d).lineRates = s.lineRates := rfl
@[simp] theorem State.reach_ampRates (s : State) (t d : Nat) : (s.reach t d).ampRates = s.ampRates := rfl
@[simp] theorem State.reach_link (s : State) (t d : Nat) : (s.reach t d).link = s.link := rfl
@[simp] theorem State.reach_prot (s : State) (t d : Nat) : (s.reach t d).prot = s.prot := rfl
@[simp] theorem State.reach_changedProt (s : State) (t d : Nat) : (s.reach t d).changedProt = s.changedProt := rfl
@[simp] theorem State.reach_allRemoved (s : State) (t d : Nat) : (s.reach t d).allRemoved = s.allRemoved := rfl
@[simp] theorem State.reach_tuner (s : State) (t d : Nat) : (s.reach t d).tuner = s.tuner := rfl
@[simp] theorem State.reach_stations (s : State) (t d : Nat) : (s.reach t d).stations = s.stations := rfl
@[simp] theorem State.reach_stationMemory (s : State) (t d : Nat) : (s.reach t d).stationMemory = s.stationMemory := rfl
@[simp] theorem State.reach_stationData (s : State) (t d : Nat) : (s.reach t d).stationData = s.stationData := rfl
@[simp] theorem State.reach_control (s : State) (t d : Nat) : (s.reach t d).control = s.control := rfl
@[simp] theorem State.reach_raised (s : State) (t d : Nat) : (s.reach t d).raised = s.raised := rfl
@[simp] theorem State.reach_dataOut (s : State) (t d : Nat) : (s.reach t d).dataOut = s.dataOut := rfl
@[simp] theorem State.reach_freeCount (s : State) (t d : Nat) : (s.reach t d).freeCount = s.freeCount := rfl

/-! ## pushMessage -/

@[simp] theorem State.pushMessage_now (s : State) (m : Message) : (s.pushMessage m).now = s.now := rfl
@[simp] theorem State.pushMessage_pending (s : State) (m : Message) : (s.pushMessage m).pending = s.pending := rfl
@[simp] theorem State.pushMessage_ports (s : State) (m : Message) : (s.pushMessage m).ports = s.ports := rfl
@[simp] theorem State.pushMessage_changedPorts (s : State) (m : Message) : (s.pushMessage m).changedPorts = s.changedPorts := rfl
@[simp] theorem State.pushMessage_sources (s : State) (m : Message) : (s.pushMessage m).sources = s.sources := rfl
@[simp] theorem State.pushMessage_zones (s : State) (m : Message) : (s.pushMessage m).zones = s.zones := rfl
@[simp] theorem State.pushMessage_waitList (s : State) (m : Message) : (s.pushMessage m).waitList = s.waitList := rfl
@[simp] theorem State.pushMessage_changedZones (s : State) (m : Message) : (s.pushMessage m).changedZones = s.changedZones := rfl
@[simp] theorem State.pushMessage_decoders (s : State) (m : Message) : (s.pushMessage m).decoders = s.decoders := rfl
@[simp] theorem State.pushMessage_changedDecoders (s : State) (m : Message) : (s.pushMessage m).changedDecoders = s.changedDecoders := rfl
@[simp] theorem State.pushMessage_changedFormats (s : State) (m : Message) : (s.pushMessage m).changedFormats = s.changedFormats := rfl
@[simp] theorem State.pushMessage_slots (s : State) (m : Message) : (s.pushMessage m).slots = s.slots := rfl
@[simp] theorem State.pushMessage_changedClips (s : State) (m : Message) : (s.pushMessage m).changedClips = s.changedClips := rfl
@[simp] theorem State.pushMessage_changedSlots (s : State) (m : Message) : (s.pushMessage m).changedSlots = s.changedSlots := rfl
@[simp] theorem State.pushMessage_lineRates (s : State) (m : Message) : (s.pushMessage m).lineRates = s.lineRates := rfl
@[simp] theorem State.pushMessage_ampRates (s : State) (m : Message) : (s.pushMessage m).ampRates = s.ampRates := rfl
@[simp] theorem State.pushMessage_link (s : State) (m : Message) : (s.pushMessage m).link = s.link := rfl
@[simp] theorem State.pushMessage_prot (s : State) (m : Message) : (s.pushMessage m).prot = s.prot := rfl
@[simp] theorem State.pushMessage_changedProt (s : State) (m : Message) : (s.pushMessage m).changedProt = s.changedProt := rfl
@[simp] theorem State.pushMessage_allRemoved (s : State) (m : Message) : (s.pushMessage m).allRemoved = s.allRemoved := rfl
@[simp] theorem State.pushMessage_tuner (s : State) (m : Message) : (s.pushMessage m).tuner = s.tuner := rfl
@[simp] theorem State.pushMessage_stations (s : State) (m : Message) : (s.pushMessage m).stations = s.stations := rfl
@[simp] theorem State.pushMessage_stationMemory (s : State) (m : Message) : (s.pushMessage m).stationMemory = s.stationMemory := rfl
@[simp] theorem State.pushMessage_stationData (s : State) (m : Message) : (s.pushMessage m).stationData = s.stationData := rfl
@[simp] theorem State.pushMessage_control (s : State) (m : Message) : (s.pushMessage m).control = { s.control with outgoing := s.control.outgoing ++ [m] } := rfl
@[simp] theorem State.pushMessage_raised (s : State) (m : Message) : (s.pushMessage m).raised = s.raised := rfl
@[simp] theorem State.pushMessage_dataOut (s : State) (m : Message) : (s.pushMessage m).dataOut = s.dataOut := rfl
@[simp] theorem State.pushMessage_freeCount (s : State) (m : Message) : (s.pushMessage m).freeCount = s.freeCount := rfl

/-! ## setPending -/

@[simp] theorem State.setPending_now (s : State) (q : List Instr) : (s.setPending q).now = s.now := rfl
@[simp] theorem State.setPending_pending (s : State) (q : List Instr) : (s.setPending q).pending = q := rfl
@[simp] theorem State.setPending_ports (s : State) (q : List Instr) : (s.setPending q).ports = s.ports := rfl
@[simp] theorem State.setPending_changedPorts (s : State) (q : List Instr) : (s.setPending q).changedPorts = s.changedPorts := rfl
@[simp] theorem State.setPending_sources (s : State) (q : List Instr) : (s.setPending q).sources = s.sources := rfl
@[simp] theorem State.setPending_zones (s : State) (q : List Instr) : (s.setPending q).zones = s.zones := rfl
@[simp] theorem State.setPending_waitList (s : State) (q : List Instr) : (s.setPending q).waitList = s.waitList := rfl
@[simp] theorem State.setPending_changedZones (s : State) (q : List Instr) : (s.setPending q).changedZones = s.changedZones := rfl
@[simp] theorem State.setPending_decoders (s : State) (q : List Instr) : (s.setPending q).decoders = s.decoders := rfl
@[simp] theorem State.setPending_changedDecoders (s : State) (q : List Instr) : (s.setPending q).changedDecoders = s.changedDecoders := rfl
@[simp] theorem State.setPending_changedFormats (s : State) (q : List Instr) : (s.setPending q).changedFormats = s.changedFormats := rfl
@[simp] theorem State.setPending_slots (s : State) (q : List Instr) : (s.setPending q).slots = s.slots := rfl
@[simp] theorem State.setPending_changedClips (s : State) (q : List Instr) : (s.setPending q).changedClips = s.changedClips := rfl
@[simp] theorem State.setPending_changedSlots (s : State) (q : List Instr) : (s.setPending q).changedSlots = s.changedSlots := rfl
@[simp] theorem State.setPending_lineRates (s : State) (q : List Instr) : (s.setPending q).lineRates = s.lineRates := rfl
@[simp] theorem State.setPending_ampRates (s : State) (q : List Instr) : (s.setPending q).ampRates = s.ampRates := rfl
@[simp] theorem State.setPending_link (s : State) (q : List Instr) : (s.setPending q).link = s.link := rfl
@[simp] theorem State.setPending_prot (s : State) (q : List Instr) : (s.setPending q).prot = s.prot := rfl
@[simp] theorem State.setPending_changedProt (s : State) (q : List Instr) : (s.setPending q).changedProt = s.changedProt := rfl
@[simp] theorem State.setPending_allRemoved (s : State) (q : List Instr) : (s.setPending q).allRemoved = s.allRemoved := rfl
@[simp] theorem State.setPending_tuner (s : State) (q : List Instr) : (s.setPending q).tuner = s.tuner := rfl
@[simp] theorem State.setPending_stations (s : State) (q : List Instr) : (s.setPending q).stations = s.stations := rfl
@[simp] theorem State.setPending_stationMemory (s : State) (q : List Instr) : (s.setPending q).stationMemory = s.stationMemory := rfl
@[simp] theorem State.setPending_stationData (s : State) (q : List Instr) : (s.setPending q).stationData = s.stationData := rfl
@[simp] theorem State.setPending_control (s : State) (q : List Instr) : (s.setPending q).control = s.control := rfl
@[simp] theorem State.setPending_raised (s : State) (q : List Instr) : (s.setPending q).raised = s.raised := rfl
@[simp] theorem State.setPending_dataOut (s : State) (q : List Instr) : (s.setPending q).dataOut = s.dataOut := rfl
@[simp] theorem State.setPending_freeCount (s : State) (q : List Instr) : (s.setPending q).freeCount = s.freeCount := rfl

/-! ## Reading one record after writing one -/

/-- Reading the record just written. -/
@[simp] theorem State.port_setPort_self (s : State) (p : PortId) (x : Port) : (s.setPort p x).port p = x := by
  simp [State.port, State.setPort]

/-- Writing a record leaves every other one as it was. -/
theorem State.port_setPort_ne (s : State) (p p' : PortId) (x : Port) (h : p' ≠ p) : (s.setPort p x).port p' = s.port p' := by
  simp [State.port, State.setPort, Vector.getElem_set_ne, Fin.val_ne_of_ne h.symm]

/-- Either way. -/
theorem State.port_setPort (s : State) (p p' : PortId) (x : Port) :
    (s.setPort p x).port p' = if p' = p then x else s.port p' := by
  by_cases h : p' = p
  · subst h; simp
  · simp [h, State.port_setPort_ne s p p' x h]

/-- Reading the record just written. -/
@[simp] theorem State.source_setSource_self (s : State) (e : SourceId) (x : Source) : (s.setSource e x).source e = x := by
  simp [State.source, State.setSource]

/-- Writing a record leaves every other one as it was. -/
theorem State.source_setSource_ne (s : State) (e e' : SourceId) (x : Source) (h : e' ≠ e) : (s.setSource e x).source e' = s.source e' := by
  simp [State.source, State.setSource, Vector.getElem_set_ne, Fin.val_ne_of_ne h.symm]

/-- Either way. -/
theorem State.source_setSource (s : State) (e e' : SourceId) (x : Source) :
    (s.setSource e x).source e' = if e' = e then x else s.source e' := by
  by_cases h : e' = e
  · subst h; simp
  · simp [h, State.source_setSource_ne s e e' x h]

/-- Reading the record just written. -/
@[simp] theorem State.zone_setZone_self (s : State) (z : ZoneId) (x : Zone) : (s.setZone z x).zone z = x := by
  simp [State.zone, State.setZone]

/-- Writing a record leaves every other one as it was. -/
theorem State.zone_setZone_ne (s : State) (z z' : ZoneId) (x : Zone) (h : z' ≠ z) : (s.setZone z x).zone z' = s.zone z' := by
  simp [State.zone, State.setZone, Vector.getElem_set_ne, Fin.val_ne_of_ne h.symm]

/-- Either way. -/
theorem State.zone_setZone (s : State) (z z' : ZoneId) (x : Zone) :
    (s.setZone z x).zone z' = if z' = z then x else s.zone z' := by
  by_cases h : z' = z
  · subst h; simp
  · simp [h, State.zone_setZone_ne s z z' x h]

/-- Reading the record just written. -/
@[simp] theorem State.decoder_setDecoder_self (s : State) (d : DecoderId) (x : Decoder) : (s.setDecoder d x).decoder d = x := by
  simp [State.decoder, State.setDecoder]

/-- Writing a record leaves every other one as it was. -/
theorem State.decoder_setDecoder_ne (s : State) (d d' : DecoderId) (x : Decoder) (h : d' ≠ d) : (s.setDecoder d x).decoder d' = s.decoder d' := by
  simp [State.decoder, State.setDecoder, Vector.getElem_set_ne, Fin.val_ne_of_ne h.symm]

/-- Either way. -/
theorem State.decoder_setDecoder (s : State) (d d' : DecoderId) (x : Decoder) :
    (s.setDecoder d x).decoder d' = if d' = d then x else s.decoder d' := by
  by_cases h : d' = d
  · subst h; simp
  · simp [h, State.decoder_setDecoder_ne s d d' x h]

/-- Reading the record just written. -/
@[simp] theorem State.slot_setSlot_self (s : State) (i : SlotId) (x : Slot) : (s.setSlot i x).slot i = x := by
  simp [State.slot, State.setSlot]

/-- Writing a record leaves every other one as it was. -/
theorem State.slot_setSlot_ne (s : State) (i i' : SlotId) (x : Slot) (h : i' ≠ i) : (s.setSlot i x).slot i' = s.slot i' := by
  simp [State.slot, State.setSlot, Vector.getElem_set_ne, Fin.val_ne_of_ne h.symm]

/-- Either way. -/
theorem State.slot_setSlot (s : State) (i i' : SlotId) (x : Slot) :
    (s.setSlot i x).slot i' = if i' = i then x else s.slot i' := by
  by_cases h : i' = i
  · subst h; simp
  · simp [h, State.slot_setSlot_ne s i i' x h]

/-- Reading the record just written. -/
@[simp] theorem State.protModule_setProtModule_self (s : State) (k : EntryId) (x : Option ProtModule) : (s.setProtModule k x).protModule k = x := by
  simp [State.protModule, State.setProtModule]

/-- Writing a record leaves every other one as it was. -/
theorem State.protModule_setProtModule_ne (s : State) (k k' : EntryId) (x : Option ProtModule) (h : k' ≠ k) : (s.setProtModule k x).protModule k' = s.protModule k' := by
  simp [State.protModule, State.setProtModule, Vector.getElem_set_ne, Fin.val_ne_of_ne h.symm]

/-- Either way. -/
theorem State.protModule_setProtModule (s : State) (k k' : EntryId) (x : Option ProtModule) :
    (s.setProtModule k x).protModule k' = if k' = k then x else s.protModule k' := by
  by_cases h : k' = k
  · subst h; simp
  · simp [h, State.protModule_setProtModule_ne s k k' x h]

/-- Reading the entry just written. -/
@[simp] theorem State.entry_setEntry_self (s : State) (k : EntryId) (x : Option Entry) : (s.setEntry k x).entry k = x := by
  simp [State.entry, State.setEntry]

/-- Writing an entry leaves every other one as it was. -/
theorem State.entry_setEntry_ne (s : State) (k k' : EntryId) (x : Option Entry) (h : k' ≠ k) :
    (s.setEntry k x).entry k' = s.entry k' := by
  simp [State.entry, State.setEntry, Vector.getElem_set_ne, Fin.val_ne_of_ne h.symm]

/-! ## Reading one record after an update of something else -/

@[simp] theorem State.source_setPort (s : State) (p : PortId) (x : Port) (e' : SourceId) : (s.setPort p x).source e' = s.source e' := rfl
@[simp] theorem State.zone_setPort (s : State) (p : PortId) (x : Port) (z' : ZoneId) : (s.setPort p x).zone z' = s.zone z' := rfl
@[simp] theorem State.decoder_setPort (s : State) (p : PortId) (x : Port) (d' : DecoderId) : (s.setPort p x).decoder d' = s.decoder d' := rfl
@[simp] theorem State.slot_setPort (s : State) (p : PortId) (x : Port) (i' : SlotId) : (s.setPort p x).slot i' = s.slot i' := rfl
@[simp] theorem State.entry_setPort (s : State) (p : PortId) (x : Port) (k' : EntryId) : (s.setPort p x).entry k' = s.entry k' := rfl
@[simp] theorem State.protModule_setPort (s : State) (p : PortId) (x : Port) (k' : EntryId) : (s.setPort p x).protModule k' = s.protModule k' := rfl
@[simp] theorem State.port_setSource (s : State) (e : SourceId) (x : Source) (p' : PortId) : (s.setSource e x).port p' = s.port p' := rfl
@[simp] theorem State.zone_setSource (s : State) (e : SourceId) (x : Source) (z' : ZoneId) : (s.setSource e x).zone z' = s.zone z' := rfl
@[simp] theorem State.decoder_setSource (s : State) (e : SourceId) (x : Source) (d' : DecoderId) : (s.setSource e x).decoder d' = s.decoder d' := rfl
@[simp] theorem State.slot_setSource (s : State) (e : SourceId) (x : Source) (i' : SlotId) : (s.setSource e x).slot i' = s.slot i' := rfl
@[simp] theorem State.entry_setSource (s : State) (e : SourceId) (x : Source) (k' : EntryId) : (s.setSource e x).entry k' = s.entry k' := rfl
@[simp] theorem State.protModule_setSource (s : State) (e : SourceId) (x : Source) (k' : EntryId) : (s.setSource e x).protModule k' = s.protModule k' := rfl
@[simp] theorem State.port_setZone (s : State) (z : ZoneId) (x : Zone) (p' : PortId) : (s.setZone z x).port p' = s.port p' := rfl
@[simp] theorem State.source_setZone (s : State) (z : ZoneId) (x : Zone) (e' : SourceId) : (s.setZone z x).source e' = s.source e' := rfl
@[simp] theorem State.decoder_setZone (s : State) (z : ZoneId) (x : Zone) (d' : DecoderId) : (s.setZone z x).decoder d' = s.decoder d' := rfl
@[simp] theorem State.slot_setZone (s : State) (z : ZoneId) (x : Zone) (i' : SlotId) : (s.setZone z x).slot i' = s.slot i' := rfl
@[simp] theorem State.entry_setZone (s : State) (z : ZoneId) (x : Zone) (k' : EntryId) : (s.setZone z x).entry k' = s.entry k' := rfl
@[simp] theorem State.protModule_setZone (s : State) (z : ZoneId) (x : Zone) (k' : EntryId) : (s.setZone z x).protModule k' = s.protModule k' := rfl
@[simp] theorem State.port_setDecoder (s : State) (d : DecoderId) (x : Decoder) (p' : PortId) : (s.setDecoder d x).port p' = s.port p' := rfl
@[simp] theorem State.source_setDecoder (s : State) (d : DecoderId) (x : Decoder) (e' : SourceId) : (s.setDecoder d x).source e' = s.source e' := rfl
@[simp] theorem State.zone_setDecoder (s : State) (d : DecoderId) (x : Decoder) (z' : ZoneId) : (s.setDecoder d x).zone z' = s.zone z' := rfl
@[simp] theorem State.slot_setDecoder (s : State) (d : DecoderId) (x : Decoder) (i' : SlotId) : (s.setDecoder d x).slot i' = s.slot i' := rfl
@[simp] theorem State.entry_setDecoder (s : State) (d : DecoderId) (x : Decoder) (k' : EntryId) : (s.setDecoder d x).entry k' = s.entry k' := rfl
@[simp] theorem State.protModule_setDecoder (s : State) (d : DecoderId) (x : Decoder) (k' : EntryId) : (s.setDecoder d x).protModule k' = s.protModule k' := rfl
@[simp] theorem State.port_setSlot (s : State) (i : SlotId) (x : Slot) (p' : PortId) : (s.setSlot i x).port p' = s.port p' := rfl
@[simp] theorem State.source_setSlot (s : State) (i : SlotId) (x : Slot) (e' : SourceId) : (s.setSlot i x).source e' = s.source e' := rfl
@[simp] theorem State.zone_setSlot (s : State) (i : SlotId) (x : Slot) (z' : ZoneId) : (s.setSlot i x).zone z' = s.zone z' := rfl
@[simp] theorem State.decoder_setSlot (s : State) (i : SlotId) (x : Slot) (d' : DecoderId) : (s.setSlot i x).decoder d' = s.decoder d' := rfl
@[simp] theorem State.entry_setSlot (s : State) (i : SlotId) (x : Slot) (k' : EntryId) : (s.setSlot i x).entry k' = s.entry k' := rfl
@[simp] theorem State.protModule_setSlot (s : State) (i : SlotId) (x : Slot) (k' : EntryId) : (s.setSlot i x).protModule k' = s.protModule k' := rfl
@[simp] theorem State.port_setLink (s : State) (x : Link) (p' : PortId) : (s.setLink x).port p' = s.port p' := rfl
@[simp] theorem State.source_setLink (s : State) (x : Link) (e' : SourceId) : (s.setLink x).source e' = s.source e' := rfl
@[simp] theorem State.zone_setLink (s : State) (x : Link) (z' : ZoneId) : (s.setLink x).zone z' = s.zone z' := rfl
@[simp] theorem State.decoder_setLink (s : State) (x : Link) (d' : DecoderId) : (s.setLink x).decoder d' = s.decoder d' := rfl
@[simp] theorem State.slot_setLink (s : State) (x : Link) (i' : SlotId) : (s.setLink x).slot i' = s.slot i' := rfl
@[simp] theorem State.protModule_setLink (s : State) (x : Link) (k' : EntryId) : (s.setLink x).protModule k' = s.protModule k' := rfl
@[simp] theorem State.port_setEntry (s : State) (k : EntryId) (x : Option Entry) (p' : PortId) : (s.setEntry k x).port p' = s.port p' := rfl
@[simp] theorem State.source_setEntry (s : State) (k : EntryId) (x : Option Entry) (e' : SourceId) : (s.setEntry k x).source e' = s.source e' := rfl
@[simp] theorem State.zone_setEntry (s : State) (k : EntryId) (x : Option Entry) (z' : ZoneId) : (s.setEntry k x).zone z' = s.zone z' := rfl
@[simp] theorem State.decoder_setEntry (s : State) (k : EntryId) (x : Option Entry) (d' : DecoderId) : (s.setEntry k x).decoder d' = s.decoder d' := rfl
@[simp] theorem State.slot_setEntry (s : State) (k : EntryId) (x : Option Entry) (i' : SlotId) : (s.setEntry k x).slot i' = s.slot i' := rfl
@[simp] theorem State.protModule_setEntry (s : State) (k : EntryId) (x : Option Entry) (k' : EntryId) : (s.setEntry k x).protModule k' = s.protModule k' := rfl
@[simp] theorem State.port_setProtModule (s : State) (k : EntryId) (x : Option ProtModule) (p' : PortId) : (s.setProtModule k x).port p' = s.port p' := rfl
@[simp] theorem State.source_setProtModule (s : State) (k : EntryId) (x : Option ProtModule) (e' : SourceId) : (s.setProtModule k x).source e' = s.source e' := rfl
@[simp] theorem State.zone_setProtModule (s : State) (k : EntryId) (x : Option ProtModule) (z' : ZoneId) : (s.setProtModule k x).zone z' = s.zone z' := rfl
@[simp] theorem State.decoder_setProtModule (s : State) (k : EntryId) (x : Option ProtModule) (d' : DecoderId) : (s.setProtModule k x).decoder d' = s.decoder d' := rfl
@[simp] theorem State.slot_setProtModule (s : State) (k : EntryId) (x : Option ProtModule) (i' : SlotId) : (s.setProtModule k x).slot i' = s.slot i' := rfl
@[simp] theorem State.entry_setProtModule (s : State) (k : EntryId) (x : Option ProtModule) (k' : EntryId) : (s.setProtModule k x).entry k' = s.entry k' := rfl
@[simp] theorem State.port_setTuner (s : State) (x : Tuner) (p' : PortId) : (s.setTuner x).port p' = s.port p' := rfl
@[simp] theorem State.source_setTuner (s : State) (x : Tuner) (e' : SourceId) : (s.setTuner x).source e' = s.source e' := rfl
@[simp] theorem State.zone_setTuner (s : State) (x : Tuner) (z' : ZoneId) : (s.setTuner x).zone z' = s.zone z' := rfl
@[simp] theorem State.decoder_setTuner (s : State) (x : Tuner) (d' : DecoderId) : (s.setTuner x).decoder d' = s.decoder d' := rfl
@[simp] theorem State.slot_setTuner (s : State) (x : Tuner) (i' : SlotId) : (s.setTuner x).slot i' = s.slot i' := rfl
@[simp] theorem State.entry_setTuner (s : State) (x : Tuner) (k' : EntryId) : (s.setTuner x).entry k' = s.entry k' := rfl
@[simp] theorem State.protModule_setTuner (s : State) (x : Tuner) (k' : EntryId) : (s.setTuner x).protModule k' = s.protModule k' := rfl
@[simp] theorem State.port_setStationData (s : State) (x : StationData) (p' : PortId) : (s.setStationData x).port p' = s.port p' := rfl
@[simp] theorem State.source_setStationData (s : State) (x : StationData) (e' : SourceId) : (s.setStationData x).source e' = s.source e' := rfl
@[simp] theorem State.zone_setStationData (s : State) (x : StationData) (z' : ZoneId) : (s.setStationData x).zone z' = s.zone z' := rfl
@[simp] theorem State.decoder_setStationData (s : State) (x : StationData) (d' : DecoderId) : (s.setStationData x).decoder d' = s.decoder d' := rfl
@[simp] theorem State.slot_setStationData (s : State) (x : StationData) (i' : SlotId) : (s.setStationData x).slot i' = s.slot i' := rfl
@[simp] theorem State.entry_setStationData (s : State) (x : StationData) (k' : EntryId) : (s.setStationData x).entry k' = s.entry k' := rfl
@[simp] theorem State.protModule_setStationData (s : State) (x : StationData) (k' : EntryId) : (s.setStationData x).protModule k' = s.protModule k' := rfl
@[simp] theorem State.port_setStationMemory (s : State) (x : StationMemory) (p' : PortId) : (s.setStationMemory x).port p' = s.port p' := rfl
@[simp] theorem State.source_setStationMemory (s : State) (x : StationMemory) (e' : SourceId) : (s.setStationMemory x).source e' = s.source e' := rfl
@[simp] theorem State.zone_setStationMemory (s : State) (x : StationMemory) (z' : ZoneId) : (s.setStationMemory x).zone z' = s.zone z' := rfl
@[simp] theorem State.decoder_setStationMemory (s : State) (x : StationMemory) (d' : DecoderId) : (s.setStationMemory x).decoder d' = s.decoder d' := rfl
@[simp] theorem State.slot_setStationMemory (s : State) (x : StationMemory) (i' : SlotId) : (s.setStationMemory x).slot i' = s.slot i' := rfl
@[simp] theorem State.entry_setStationMemory (s : State) (x : StationMemory) (k' : EntryId) : (s.setStationMemory x).entry k' = s.entry k' := rfl
@[simp] theorem State.protModule_setStationMemory (s : State) (x : StationMemory) (k' : EntryId) : (s.setStationMemory x).protModule k' = s.protModule k' := rfl
@[simp] theorem State.port_setControl (s : State) (x : Control) (p' : PortId) : (s.setControl x).port p' = s.port p' := rfl
@[simp] theorem State.source_setControl (s : State) (x : Control) (e' : SourceId) : (s.setControl x).source e' = s.source e' := rfl
@[simp] theorem State.zone_setControl (s : State) (x : Control) (z' : ZoneId) : (s.setControl x).zone z' = s.zone z' := rfl
@[simp] theorem State.decoder_setControl (s : State) (x : Control) (d' : DecoderId) : (s.setControl x).decoder d' = s.decoder d' := rfl
@[simp] theorem State.slot_setControl (s : State) (x : Control) (i' : SlotId) : (s.setControl x).slot i' = s.slot i' := rfl
@[simp] theorem State.entry_setControl (s : State) (x : Control) (k' : EntryId) : (s.setControl x).entry k' = s.entry k' := rfl
@[simp] theorem State.protModule_setControl (s : State) (x : Control) (k' : EntryId) : (s.setControl x).protModule k' = s.protModule k' := rfl
@[simp] theorem State.port_raise (s : State) (k : NoticeKind) (p' : PortId) : (s.raise k).port p' = s.port p' := rfl
@[simp] theorem State.source_raise (s : State) (k : NoticeKind) (e' : SourceId) : (s.raise k).source e' = s.source e' := rfl
@[simp] theorem State.zone_raise (s : State) (k : NoticeKind) (z' : ZoneId) : (s.raise k).zone z' = s.zone z' := rfl
@[simp] theorem State.decoder_raise (s : State) (k : NoticeKind) (d' : DecoderId) : (s.raise k).decoder d' = s.decoder d' := rfl
@[simp] theorem State.slot_raise (s : State) (k : NoticeKind) (i' : SlotId) : (s.raise k).slot i' = s.slot i' := rfl
@[simp] theorem State.entry_raise (s : State) (k : NoticeKind) (k' : EntryId) : (s.raise k).entry k' = s.entry k' := rfl
@[simp] theorem State.protModule_raise (s : State) (k : NoticeKind) (k' : EntryId) : (s.raise k).protModule k' = s.protModule k' := rfl
@[simp] theorem State.port_reach (s : State) (t d : Nat) (p' : PortId) : (s.reach t d).port p' = s.port p' := rfl
@[simp] theorem State.source_reach (s : State) (t d : Nat) (e' : SourceId) : (s.reach t d).source e' = s.source e' := rfl
@[simp] theorem State.zone_reach (s : State) (t d : Nat) (z' : ZoneId) : (s.reach t d).zone z' = s.zone z' := rfl
@[simp] theorem State.decoder_reach (s : State) (t d : Nat) (d' : DecoderId) : (s.reach t d).decoder d' = s.decoder d' := rfl
@[simp] theorem State.slot_reach (s : State) (t d : Nat) (i' : SlotId) : (s.reach t d).slot i' = s.slot i' := rfl
@[simp] theorem State.entry_reach (s : State) (t d : Nat) (k' : EntryId) : (s.reach t d).entry k' = s.entry k' := rfl
@[simp] theorem State.protModule_reach (s : State) (t d : Nat) (k' : EntryId) : (s.reach t d).protModule k' = s.protModule k' := rfl
@[simp] theorem State.port_pushMessage (s : State) (m : Message) (p' : PortId) : (s.pushMessage m).port p' = s.port p' := rfl
@[simp] theorem State.source_pushMessage (s : State) (m : Message) (e' : SourceId) : (s.pushMessage m).source e' = s.source e' := rfl
@[simp] theorem State.zone_pushMessage (s : State) (m : Message) (z' : ZoneId) : (s.pushMessage m).zone z' = s.zone z' := rfl
@[simp] theorem State.decoder_pushMessage (s : State) (m : Message) (d' : DecoderId) : (s.pushMessage m).decoder d' = s.decoder d' := rfl
@[simp] theorem State.slot_pushMessage (s : State) (m : Message) (i' : SlotId) : (s.pushMessage m).slot i' = s.slot i' := rfl
@[simp] theorem State.entry_pushMessage (s : State) (m : Message) (k' : EntryId) : (s.pushMessage m).entry k' = s.entry k' := rfl
@[simp] theorem State.protModule_pushMessage (s : State) (m : Message) (k' : EntryId) : (s.pushMessage m).protModule k' = s.protModule k' := rfl
@[simp] theorem State.port_setPending (s : State) (q : List Instr) (p' : PortId) : (s.setPending q).port p' = s.port p' := rfl
@[simp] theorem State.source_setPending (s : State) (q : List Instr) (e' : SourceId) : (s.setPending q).source e' = s.source e' := rfl
@[simp] theorem State.zone_setPending (s : State) (q : List Instr) (z' : ZoneId) : (s.setPending q).zone z' = s.zone z' := rfl
@[simp] theorem State.decoder_setPending (s : State) (q : List Instr) (d' : DecoderId) : (s.setPending q).decoder d' = s.decoder d' := rfl
@[simp] theorem State.slot_setPending (s : State) (q : List Instr) (i' : SlotId) : (s.setPending q).slot i' = s.slot i' := rfl
@[simp] theorem State.entry_setPending (s : State) (q : List Instr) (k' : EntryId) : (s.setPending q).entry k' = s.entry k' := rfl
@[simp] theorem State.protModule_setPending (s : State) (q : List Instr) (k' : EntryId) : (s.setPending q).protModule k' = s.protModule k' := rfl

end Sys2Proof.Machine
end

