-- ==== Sys2Proof/Laws/Notices.lean ====
section
/-! SUPPORT. What the end of an event can do: it places notices at the tail and touches nothing but what belongs to notices. -/

namespace Sys2Proof.Safety

open Sys2Proof.Machine

/-! ## What is put aside -/

@[simp] theorem hushed_raise (s : State) (k : NoticeKind) : hushed (s.raise k) = hushed s := rfl
@[simp] theorem hushed_markPort (s : State) (p : PortId) : hushed (s.markPort p) = hushed s := rfl
@[simp] theorem hushed_markZone (s : State) (z : ZoneId) : hushed (s.markZone z) = hushed s := rfl
@[simp] theorem hushed_markDecoder (s : State) (d : DecoderId) : hushed (s.markDecoder d) = hushed s := rfl
@[simp] theorem hushed_markFormat (s : State) (d : DecoderId) : hushed (s.markFormat d) = hushed s := rfl
@[simp] theorem hushed_markClip (s : State) (i : SlotId) : hushed (s.markClip i) = hushed s := rfl
@[simp] theorem hushed_markSlot (s : State) (i : SlotId) : hushed (s.markSlot i) = hushed s := rfl
@[simp] theorem hushed_markEntry (s : State) (k : EntryId) : hushed (s.markEntry k) = hushed s := rfl
@[simp] theorem hushed_markProt (s : State) (id : Identity) (ch : Nat) : hushed (s.markProt id ch) = hushed s := rfl
@[simp] theorem hushed_clearRaised (s : State) : hushed s.clearRaised = hushed s := rfl
@[simp] theorem hushed_latch (s : State) (k : NoticeKind) : hushed (s.latch k) = hushed s := rfl
@[simp] theorem hushed_pushMessage (s : State) (m : Message) : hushed (s.pushMessage m) = hushed s := rfl

/-- Emptying what a notice carried touches nothing else. -/
@[simp] theorem hushed_noticed (s : State) (k : NoticeKind) : hushed (s.noticed k) = hushed s := by cases k <;> rfl

/-- Emptying what a notice carried leaves the outgoing queue alone. -/
@[simp] theorem noticed_outgoing (s : State) (k : NoticeKind) : (s.noticed k).control.outgoing = s.control.outgoing := by
  cases k <;> rfl

@[simp] theorem hushed_place (s : State) (k : NoticeKind) : hushed (s.place k) = hushed s := by
  have h : hushed (s.place k) = hushed ((s.pushMessage { kind := k.byte, tag := 0, payload := s.snapshot k }).noticed k) := rfl
  rw [h, hushed_noticed, hushed_pushMessage]

/-- A placed notice stands at the tail. -/
@[simp] theorem place_outgoing (s : State) (k : NoticeKind) :
    (s.place k).control.outgoing = s.control.outgoing ++ [{ kind := k.byte, tag := 0, payload := s.snapshot k }] := by
  simp [State.place]

/-! ## Adding notices -/

theorem NoticesAdded.refl (s : State) : NoticesAdded s s := ⟨[], by simp, by simp⟩

theorem NoticesAdded.of_eq {s t : State} (h : t.control.outgoing = s.control.outgoing) : NoticesAdded s t := ⟨[], by simp, by simp [h]⟩

theorem NoticesAdded.trans {a b c : State} (h : NoticesAdded a b) (g : NoticesAdded b c) : NoticesAdded a c := by
  obtain ⟨xs, hx, ex⟩ := h
  obtain ⟨ys, hy, ey⟩ := g
  exact ⟨xs ++ ys, fun m hm => (List.mem_append.mp hm).elim (hx m) (hy m), by rw [ey, ex, List.append_assoc]⟩

theorem Noted.refl (s : State) : Noted s s := ⟨rfl, .refl s⟩

theorem Noted.trans {a b c : State} (h : Noted a b) (g : Noted b c) : Noted a c := ⟨g.1.trans h.1, h.2.trans g.2⟩

/-- Placing a notice adds a notice. -/
theorem place_noted (s : State) (k : NoticeKind) : Noted s (s.place k) :=
  ⟨hushed_place s k, [{ kind := k.byte, tag := 0, payload := s.snapshot k }], by
    intro m hm; rw [List.mem_singleton] at hm; exact ⟨k, by rw [hm], by rw [hm]⟩, place_outgoing s k⟩

/-- What is done for one kind at the end of an event (R188): nothing, a notice placed, or a latch set. -/
theorem settleKind_cases (s : State) (k : NoticeKind) :
    (s.settleKind k = s ∧ (s.raised[k.number] = false ∨ s.control.enabled[k.number] = false)) ∨
    (s.settleKind k = s.place k ∧ s.control.holds k = false ∧ s.control.hasRoom = true ∧
      s.raised[k.number] = true ∧ s.control.enabled[k.number] = true) ∨
    (s.settleKind k = s.latch k ∧ (s.control.holds k = true ∨ s.control.hasRoom = false) ∧
      s.raised[k.number] = true ∧ s.control.enabled[k.number] = true) := by
  unfold State.settleKind
  cases hr : s.raised[k.number] <;> cases he : s.control.enabled[k.number] <;>
    cases hh : s.control.holds k <;> cases hm : s.control.hasRoom <;> simp

theorem settleKind_noted (s : State) (k : NoticeKind) : Noted s (s.settleKind k) := by
  rcases settleKind_cases s k with ⟨h, _⟩ | ⟨h, _⟩ | ⟨h, _⟩ <;> rw [h]
  · exact .refl s
  · exact place_noted s k
  · exact ⟨hushed_latch s k, .of_eq rfl⟩

/-- A run of steps each of which adds notices only. -/
theorem foldl_noted {α : Type} (f : State → α → State) (h : ∀ s a, Noted s (f s a)) (l : List α) (s : State) :
    Noted s (l.foldl f s) := by
  induction l generalizing s with
  | nil => exact .refl s
  | cons a l ih => exact (h s a).trans (ih (f s a))

theorem clearRaised_noted (s : State) : Noted s s.clearRaised := ⟨hushed_clearRaised s, .of_eq rfl⟩

/-- The end of an event touches nothing but what belongs to notices, and adds notices to the outgoing queue. -/
theorem settle_noted (s : State) : Noted s s.settle := by
  unfold State.settle
  split
  · exact clearRaised_noted s
  · exact (foldl_noted State.settleKind settleKind_noted NoticeKind.all s).trans (clearRaised_noted _)

@[simp] theorem hushed_settle (s : State) : hushed s.settle = hushed s := (settle_noted s).1

/-- During initialisation the end of an event places nothing (R195). -/
theorem settle_notReady (s : State) (h : s.control.notReady = true) : s.settle = s.clearRaised := by simp [State.settle, h]

/-! ## What placing empties, and the state after several notices (R188) -/

/-- What a placed notice carries is emptied. -/
theorem noticed_eq (s : State) (k : NoticeKind) : s.noticed k = emptied s [k] := by cases k <;> rfl

/-- Emptying after one more notice. -/
theorem emptied_append (s : State) (placed : List NoticeKind) (k : NoticeKind) :
    emptied (emptied s placed) [k] = emptied s (placed ++ [k]) := by
  cases k <;> simp [emptied] <;> split <;> simp

/-- Emptying leaves the link as it is but for the changed-entry set. -/
theorem emptied_link (s : State) (p : List NoticeKind) :
    (emptied s p).link = { s.link with changed := if .link ∈ p then [] else s.link.changed } := by
  simp only [emptied]; split <;> rfl

/-- Emptying leaves station data as they are but for the counts of ANNOUNCE. -/
theorem emptied_stationData (s : State) (p : List NoticeKind) :
    (emptied s p).stationData = { s.stationData with
      starts := if .announce ∈ p then 0 else s.stationData.starts, ends := if .announce ∈ p then 0 else s.stationData.ends } := by
  simp only [emptied]; split <;> rfl

/-- Emptying leaves the command processor as it is but for what GROUP carries. -/
theorem emptied_control (s : State) (p : List NoticeKind) :
    (emptied s p).control = { s.control with
      groupsExpired := if .group ∈ p then 0 else s.control.groupsExpired
      commandsDiscarded := if .group ∈ p then 0 else s.control.commandsDiscarded
      zonesDiscarded := if .group ∈ p then [] else s.control.zonesDiscarded } := by
  simp only [emptied]; split <;> rfl

/-- The module table is not emptied. -/
theorem emptied_entry (s : State) (p : List NoticeKind) : (emptied s p).entry = s.entry := by
  funext k; simp [State.entry, emptied_link]

/-- A snapshot carries nothing that notices of other kinds emptied. -/
theorem snapshot_emptied (s : State) (p : List NoticeKind) (k : NoticeKind) (h : k ∉ p) :
    (emptied s p).snapshot k = s.snapshot k := by
  have he := emptied_entry s p
  have ho : (emptied s p).entryOf = s.entryOf := by funext i; simp [State.entryOf, he]
  have hm : (emptied s p).protModule = s.protModule := rfl
  have hp : (emptied s p).protRecord = s.protRecord := by funext i c; simp [State.protRecord, ho, hm]
  have hl : (emptied s p).encLane = s.encLane := rfl
  cases k
  case start => rfl
  case tuner => rfl
  case protect =>
    have hc : (emptied s p).changedProt = s.changedProt := by simp [emptied, h]
    have ha : (emptied s p).allRemoved = s.allRemoved := by simp [emptied, h]
    simp [State.snapshot, State.encProtChannel, State.suppliesHeld, hp, he, hm, hc, ha]
  case link => simp [State.snapshot, he, emptied_link, h, Link.state]
  case slot =>
    have : (emptied s p).encSlotStatus = s.encSlotStatus := rfl
    simp [State.snapshot, State.encLanes, State.tableIdentities, he, hl, this]
    simp [emptied, h]
  case group => simp [State.snapshot, emptied_control, h]
  case announce =>
    simp [State.snapshot, State.announcementTime, emptied_stationData, h]; rfl
  case station => simp [State.snapshot, emptied_stationData, encSegments, StationData.complete]; rfl
  case zone =>
    have : (emptied s p).encZoneStatus = s.encZoneStatus := rfl
    have hw : (emptied s p).waitList = s.waitList := rfl
    simp [State.snapshot, this, hw]; simp [emptied, h]
  case source =>
    have : (emptied s p).encPort = s.encPort := rfl
    simp [State.snapshot, this]; simp [emptied, h]
  case decoder =>
    have : (emptied s p).encDecoderStatus = s.encDecoderStatus := rfl
    simp [State.snapshot, this]; simp [emptied, h]
  case format =>
    have : (emptied s p).encFormat = s.encFormat := rfl
    simp [State.snapshot, this]; simp [emptied, h]
  case clip =>
    have : (emptied s p).encClip = s.encClip := rfl
    simp [State.snapshot, this]; simp [emptied, h]

/-- `s` with notices of the kinds `p` placed, and the latches as they then are. -/
def settled (s : State) (p : List NoticeKind) (l : Vector Bool 13) : State :=
  { emptied s p with control := { (emptied s p).control with
      outgoing := s.control.outgoing ++ p.map fun k => { kind := k.byte, tag := 0, payload := s.snapshot k }, latched := l } }

/-- A kind not yet placed has the snapshot it had. -/
theorem settled_snapshot (s : State) (p : List NoticeKind) (l : Vector Bool 13) (k : NoticeKind) (h : k ∉ p) :
    (settled s p l).snapshot k = s.snapshot k := by
  rw [← snapshot_emptied s p k h]
  cases k <;> rfl

/-- One more notice placed. -/
theorem settled_place (s : State) (p : List NoticeKind) (l : Vector Bool 13) (k : NoticeKind) (h : k ∉ p) :
    (settled s p l).place k = settled s (p ++ [k]) (l.set k.number false) := by
  unfold State.place
  rw [settled_snapshot s p l k h, noticed_eq]
  unfold settled
  rw [← emptied_append]
  simp [State.pushMessage, State.setControl, emptied_control]
  cases k <;> simp [emptied]

/-- One more latch set. -/
theorem settled_latch (s : State) (p : List NoticeKind) (l : Vector Bool 13) (k : NoticeKind) :
    (settled s p l).latch k = settled s p (l.set k.number true) := rfl

/-- The kinds have distinct kind bytes. -/
theorem byte_inj (j k : NoticeKind) (h : j.byte = k.byte) : j = k := by
  cases j <;> cases k <;> first | rfl | exact absurd h (by decide)

/-! ## Changed sets -/

/-- A number inserted joins the set. -/
theorem joined_insertAsc (n : Nat) (l : List Nat) : Joined n l (insertAsc n l) := by
  have mem : ∀ l : List Nat, ∀ m, m ∈ insertAsc n l ↔ m = n ∨ m ∈ l := by
    intro l m
    induction l with
    | nil => simp [insertAsc]
    | cons y ys ih =>
      unfold insertAsc
      split
      · simp
      · split
        · rename_i h; subst h; simp
        · simp [ih, or_left_comm]
  refine ⟨mem l, fun h => ?_⟩
  induction l with
  | nil => simp [insertAsc]
  | cons y ys ih =>
    rw [List.pairwise_cons] at h
    unfold insertAsc
    split
    · rename_i hxy
      exact List.pairwise_cons.mpr ⟨fun m hm => (List.mem_cons.mp hm).elim (· ▸ hxy) fun hm => Nat.lt_trans hxy (h.1 m hm),
        List.pairwise_cons.mpr h⟩
    · split
      · exact List.pairwise_cons.mpr h
      · refine List.pairwise_cons.mpr ⟨fun m hm => ?_, ih h.2⟩
        rcases (mem ys m).mp hm with rfl | hm
        · omega
        · exact h.1 m hm

/-! ## What `hushed` keeps, field by field -/

theorem hushed_now {s t : State} (h : hushed t = hushed s) : t.now = s.now := congrArg (·.now) h
theorem hushed_pending {s t : State} (h : hushed t = hushed s) : t.pending = s.pending := congrArg (·.pending) h
theorem hushed_ports {s t : State} (h : hushed t = hushed s) : t.ports = s.ports := congrArg (·.ports) h
theorem hushed_sources {s t : State} (h : hushed t = hushed s) : t.sources = s.sources := congrArg (·.sources) h
theorem hushed_zones {s t : State} (h : hushed t = hushed s) : t.zones = s.zones := congrArg (·.zones) h
theorem hushed_waitList {s t : State} (h : hushed t = hushed s) : t.waitList = s.waitList := congrArg (·.waitList) h
theorem hushed_decoders {s t : State} (h : hushed t = hushed s) : t.decoders = s.decoders := congrArg (·.decoders) h
theorem hushed_slots {s t : State} (h : hushed t = hushed s) : t.slots = s.slots := congrArg (·.slots) h
theorem hushed_lineRates {s t : State} (h : hushed t = hushed s) : t.lineRates = s.lineRates := congrArg (·.lineRates) h
theorem hushed_ampRates {s t : State} (h : hushed t = hushed s) : t.ampRates = s.ampRates := congrArg (·.ampRates) h
theorem hushed_prot {s t : State} (h : hushed t = hushed s) : t.prot = s.prot := congrArg (·.prot) h
theorem hushed_tuner {s t : State} (h : hushed t = hushed s) : t.tuner = s.tuner := congrArg (·.tuner) h
theorem hushed_stations {s t : State} (h : hushed t = hushed s) : t.stations = s.stations := congrArg (·.stations) h
theorem hushed_stationMemory {s t : State} (h : hushed t = hushed s) : t.stationMemory = s.stationMemory :=
  congrArg (·.stationMemory) h
theorem hushed_commands {s t : State} (h : hushed t = hushed s) : t.control.commands = s.control.commands :=
  congrArg (·.control.commands) h
theorem hushed_notReady {s t : State} (h : hushed t = hushed s) : t.control.notReady = s.control.notReady :=
  congrArg (·.control.notReady) h
theorem hushed_longOps {s t : State} (h : hushed t = hushed s) : t.control.longOps = s.control.longOps :=
  congrArg (·.control.longOps) h
theorem hushed_enabled {s t : State} (h : hushed t = hushed s) : t.control.enabled = s.control.enabled :=
  congrArg (·.control.enabled) h

end Sys2Proof.Safety
end

