-- ==== Sys2Proof/Laws/Commands.lean ====
section
/-! SUPPORT. The execution of a host command: what it does to the command queue, and what a command of wrong form does; the end of an
event in which nothing was raised; the fields of a payload. -/

namespace Sys2Proof.Safety

open Sys2Proof.Machine

/-! ## Events that raise nothing -/

@[simp] theorem clearRaised_calm (s : State) : Calm s.clearRaised := rfl

@[simp] theorem settle_isCalm (s : State) : Calm s.settle := by
  unfold State.settle
  split <;> exact clearRaised_calm _

theorem calm_raised {s : State} (h : Calm s) (k : NoticeKind) : s.raised[k.number] = false := by
  unfold Calm at h
  rw [h]
  cases k <;> rfl

theorem clearRaised_of_calm {s : State} (h : Calm s) : s.clearRaised = s := by
  unfold Calm at h
  unfold State.clearRaised
  rw [show Vector.replicate 13 false = State.reset.raised from rfl, ← h]

theorem settleKind_of_calm {s : State} (h : Calm s) (k : NoticeKind) : s.settleKind k = s := by
  simp [State.settleKind, calm_raised h]

/-- Where nothing is raised, the end of an event changes nothing. -/
theorem settle_of_calm {s : State} (h : Calm s) : s.settle = s := by
  have f : ∀ l : List NoticeKind, l.foldl State.settleKind s = s := by
    intro l
    induction l with
    | nil => rfl
    | cons k l ih => rw [List.foldl_cons, settleKind_of_calm h, ih]
  unfold State.settle
  rw [f, clearRaised_of_calm h]
  split <;> rfl

@[simp] theorem calm_answered {s : State} {c : Command} {r : Result} {d : List Byte} : Calm (answered s c r d) ↔ Calm s := Iff.rfl
@[simp] theorem calm_popped {s : State} : Calm (popped s) ↔ Calm s := Iff.rfl

/-! ## The head of the command queue -/

/-- The command at the head is handed to its block, once it has left the queue. -/
theorem execute_head {s : State} {c : Command} {kind : Nat} (body : State → Command → State) (h : Heads s c)
    (k : c.kind.toNat = kind) : s.execute kind body = body (popped s) c := by
  obtain ⟨hd, f⟩ := h
  unfold State.execute
  cases e : s.control.commands with
  | nil => simp [e] at hd
  | cons x rest =>
    obtain rfl : x = c := by simpa [e] using hd
    simp [k, f, popped, State.setControl, e]

/-- A command of wrong form is answered BAD_FORMAT, and its block is not reached. -/
theorem execute_badFormat {s : State} {c : Command} {kind : Nat} (body : State → Command → State)
    (h : s.control.commands.head? = some c) (k : c.kind.toNat = kind) (f : c.formRight = false) :
    s.execute kind body = answered s c .badFormat [] := by
  unfold State.execute
  cases e : s.control.commands with
  | nil => simp [e] at h
  | cons x rest =>
    obtain rfl : x = c := by simpa [e] using h
    simp [k, f, answered, State.answer, State.reply, State.pushMessage, State.setControl, replyTo, kindReply, e]

/-- No command, or one of another kind, at the head: the event does not occur. -/
theorem execute_other {s : State} {kind : Nat} (body : State → Command → State)
    (h : ∀ c, s.control.commands.head? = some c → c.kind.toNat ≠ kind) : s.execute kind body = s := by
  unfold State.execute
  cases e : s.control.commands with
  | nil => rfl
  | cons x rest => simp [h x (by simp [e])]

/-- A reply to the command that has left the queue. -/
theorem reply_popped (s : State) (c : Command) (r : Result) (d : List Byte) : (popped s).reply c r d = answered s c r d := rfl

@[simp] theorem answer_popped (s : State) (c : Command) (r : Result) : (popped s).answer c r = answered s c r [] := rfl

/-- Everything an execution can do: nothing, BAD_FORMAT, or what the block does with the command. -/
theorem execute_cases (s : State) (kind : Nat) (body : State → Command → State) :
    s.execute kind body = s ∨
    ∃ c, s.control.commands.head? = some c ∧ c.kind.toNat = kind ∧
      ((c.formRight = false ∧ s.execute kind body = answered s c .badFormat []) ∨
       (c.formRight = true ∧ s.execute kind body = body (popped s) c)) := by
  cases e : s.control.commands with
  | nil => exact .inl (execute_other body (by simp [e]))
  | cons c rest =>
    by_cases k : c.kind.toNat = kind
    · refine .inr ⟨c, by simp [], k, ?_⟩
      cases f : c.formRight
      · exact .inl ⟨rfl, execute_badFormat body (by simp [e]) k f⟩
      · exact .inr ⟨rfl, execute_head body ⟨by simp [e], f⟩ k⟩
    · exact .inl (execute_other body (by simp [e, k]))

/-! ## Long operations -/

/-- Without a long operation of that kind in flight, no reply is placed. -/
theorem replyLong_none {s : State} {k : LongKind} (r : Result) (data : List Byte) (h : ∀ o ∈ s.control.longOps, o.kind ≠ k) :
    s.replyLong k r data = s := by
  unfold State.replyLong
  have : s.control.longOps.find? (fun o => o.kind == k) = none := by
    rw [List.find?_eq_none]
    intro o ho
    simpa using h o ho
  rw [this]

/-- The one long operation of a kind gets its reply at the tail of the outgoing queue, and its reservation is given up. -/
theorem replyLong_one {s : State} {k : LongKind} {before rest : List LongOp} {op : LongOp} (r : Result) (data : List Byte)
    (h : s.control.longOps = before ++ op :: rest) (k0 : op.kind = k) (others : ∀ o ∈ before ++ rest, o.kind ≠ k) :
    s.replyLong k r data = { s with control := { s.control with
      longOps := before ++ rest
      outgoing := s.control.outgoing ++ [{ kind := 0x80, tag := op.tag, payload := r.code :: op.command :: data }] } } := by
  have b : ∀ o ∈ before, (o.kind != k) = true := fun o ho => by simpa using others o (by simp [ho])
  have a : ∀ o ∈ rest, (o.kind != k) = true := fun o ho => by simpa using others o (by simp [ho])
  have f : s.control.longOps.find? (fun o => o.kind == k) = some op := by
    rw [h, List.find?_append, List.find?_eq_none.2 (by intro o ho; simpa using b o ho)]
    simp [k0]
  have g : s.control.longOps.filter (fun x => x.kind != k) = before ++ rest := by
    rw [h, List.filter_append, List.filter_cons, List.filter_eq_self.2 b, List.filter_eq_self.2 a]
    simp [k0]
  unfold State.replyLong
  rw [f]
  simp [g, State.pushMessage, State.setControl, replyTo, kindReply]

/-! ## Fields of a payload -/

/-- An index byte that names an index. -/
theorem toFin_byteOf {k : Nat} (hk : k ≤ 256) (i : Fin k) : toFin? k (byteOf i).toNat = some i := by
  have h : (byteOf i).toNat = i.val := by
    simp only [byteOf, BitVec.toNat_ofNat]
    exact Nat.mod_eq_of_lt (by omega)
  simp [toFin?, h]

theorem uField_one (b : Byte) (pre rest : List Byte) : uField (pre ++ b :: rest) pre.length 1 = b.toNat := by
  simp [uField, beNat]

theorem uField_two (hi lo : Byte) (pre rest : List Byte) :
    uField (pre ++ hi :: lo :: rest) pre.length 2 = (hi ++ lo).toNat := by
  simp only [uField, beNat, List.drop_left, List.take_succ_cons, List.take_zero, List.foldl_cons, List.foldl_nil,
    BitVec.toNat_append]
  rw [← Nat.shiftLeft_add_eq_or_of_lt lo.isLt]
  simp [Nat.shiftLeft_eq]

/-- Two bytes read as a two's complement value are those of the word they form. -/
theorem sField_two (hi lo : Byte) (pre rest : List Byte) :
    sField (pre ++ hi :: lo :: rest) pre.length 2 = word2 hi lo := by
  unfold sField word2
  rw [uField_two]
  rfl

/-- When a zone shows its custom matrix as inactive: its mode is CUSTOM and no custom matrix of the stored map is in force (R101). -/
theorem customInactive_iff (x : Zone) :
    x.customInactive = true ↔ x.matrixMode = .custom ∧
      ¬ ((∃ m, x.matrix = some m ∧ m.custom = true) ∧ ∃ st, x.store = some st ∧ x.map = some st.map) := by
  rcases hm : x.matrix with _ | ⟨rows, _ | _⟩ <;> rcases hs : x.store with _ | st <;>
    simp [Zone.customInactive, Zone.customPlays, hm, hs]

end Sys2Proof.Safety
end

