-- ==== Sys2Proof/Laws/Replay.lean ====
section
/-! SUPPORT. What a change of program can do: whatever a port, a decoder or the zone controller does to the zones touches, beside
notices, nothing but what follows from what the zones play. -/

namespace Sys2Proof.Safety

open Sys2Proof.Machine

/-! ## What no change of program touches -/

/-- `s` with everything put aside that the zone controller, the decoders and the input receivers may touch, but for the ports: the
command processor, the link, the protection unit and the tuner stay whole. -/
def aside (s : State) : State :=
  { s with
    changedPorts := [], changedZones := [], changedDecoders := [], changedFormats := [], changedClips := [], changedSlots := [],
    raised := State.reset.raised, waitList := [], decoders := State.reset.decoders, zones := s.zones.map zoneSettings,
    slots := s.slots.map slotSettings, lineRates := State.reset.lineRates, ampRates := [] }

/-- What `aside` keeps, `offAir` keeps. -/
theorem offAir_of_aside {s t : State} (h : aside t = aside s) : offAir t = offAir s := by
  have e : ∀ x : State, offAir x = { hushed (aside x) with
      waitList := [], decoders := State.reset.decoders, zones := (aside x).zones, slots := (aside x).slots,
      lineRates := State.reset.lineRates, ampRates := [] } := fun _ => rfl
  rw [e, e, h]

/-- The command processor is not touched. -/
theorem control_of_aside {s t : State} (h : aside t = aside s) : t.control = s.control := congrArg (·.control) h

/-- `offAir` reads nothing that belongs to notices. -/
theorem offAir_of_hushed {s t : State} (h : hushed t = hushed s) : offAir t = offAir s := by
  have e : ∀ x : State, offAir x = { hushed x with
      waitList := [], decoders := State.reset.decoders, zones := (hushed x).zones.map zoneSettings,
      slots := (hushed x).slots.map slotSettings, lineRates := State.reset.lineRates, ampRates := [] } := fun _ => rfl
  rw [e, e, h]

@[simp] theorem offAir_settle (s : State) : offAir s.settle = offAir s := offAir_of_hushed (hushed_settle s)

/-- A change of program, and then the end of the event: nothing differs but what the zones play, and notices are added. -/
theorem replayed_settle {x y : State} (h : aside y = aside x) : Replayed x y.settle := by
  refine ⟨(offAir_settle y).trans (offAir_of_aside h), ?_⟩
  exact NoticesAdded.trans (.of_eq (congrArg (·.outgoing) (control_of_aside h))) (settle_noted y).2

@[simp] theorem aside_raise (s : State) (k : NoticeKind) : aside (s.raise k) = aside s := rfl
@[simp] theorem aside_markPort (s : State) (p : PortId) : aside (s.markPort p) = aside s := rfl
@[simp] theorem aside_markZone (s : State) (z : ZoneId) : aside (s.markZone z) = aside s := rfl
@[simp] theorem aside_markDecoder (s : State) (d : DecoderId) : aside (s.markDecoder d) = aside s := rfl
@[simp] theorem aside_markFormat (s : State) (d : DecoderId) : aside (s.markFormat d) = aside s := rfl
@[simp] theorem aside_markClip (s : State) (i : SlotId) : aside (s.markClip i) = aside s := rfl
@[simp] theorem aside_markSlot (s : State) (i : SlotId) : aside (s.markSlot i) = aside s := rfl
@[simp] theorem aside_setDecoder (s : State) (d : DecoderId) (x : Decoder) : aside (s.setDecoder d x) = aside s := rfl
@[simp] theorem aside_waitList (s : State) (l : List ZoneId) : aside { s with waitList := l } = aside s := rfl

/-! ## One record written -/

/-- Writing one element of a vector and then mapping, when the map gives what stood there. -/
theorem map_set_of_eq {α β : Type} {n : Nat} (v : Vector α n) (f : α → β) (i : Fin n) (x : α) (h : f x = f v[i]) :
    (v.set i x).map f = v.map f := by
  apply Vector.ext
  intro j hj
  by_cases e : i.val = j
  · subst e; simpa using h
  · simp [Vector.getElem_set_ne, e]

/-- A zone written with its settings kept. -/
theorem aside_setZone (s : State) (z : ZoneId) (x : Zone) (h : zoneSettings x = zoneSettings (s.zone z)) :
    aside (s.setZone z x) = aside s := by
  have e := map_set_of_eq s.zones zoneSettings z x h
  unfold aside
  simp only [State.setZone_zones, State.setZone_slots, e]
  rfl

/-- A slot written with its settings kept. -/
theorem aside_setSlot (s : State) (i : SlotId) (x : Slot) (h : slotSettings x = slotSettings (s.slot i)) :
    aside (s.setSlot i x) = aside s := by
  have e := map_set_of_eq s.slots slotSettings i x h
  unfold aside
  simp only [State.setSlot_slots, State.setSlot_zones, e]
  rfl

theorem aside_updZone (s : State) (z : ZoneId) (f : Zone → Zone) (h : ∀ x, zoneSettings (f x) = zoneSettings x) :
    aside (s.updZone z f) = aside s := by
  unfold State.updZone
  dsimp only
  split <;> simp [aside_setZone s z _ (h _)]

theorem aside_updSlot (s : State) (i : SlotId) (f : Slot → Slot) (h : ∀ x, slotSettings (f x) = slotSettings x) :
    aside (s.updSlot i f) = aside s := by
  unfold State.updSlot
  dsimp only
  split <;> simp [aside_setSlot s i _ (h _)]

@[simp] theorem aside_updDecoder (s : State) (d : DecoderId) (f : Decoder → Decoder) : aside (s.updDecoder d f) = aside s := by
  unfold State.updDecoder
  dsimp only
  split <;> simp

/-- A run of steps each of which keeps what `aside` keeps. -/
theorem aside_foldl {α : Type} (f : State → α → State) (h : ∀ s a, aside (f s a) = aside s) (l : List α) (s : State) :
    aside (l.foldl f s) = aside s := by
  induction l generalizing s with
  | nil => rfl
  | cons a l ih => exact (ih (f s a)).trans (h s a)

theorem aside_mapSlots (s : State) (z : ZoneId) (f : Role → Slot → Slot) (h : ∀ r x, slotSettings (f r x) = slotSettings x) :
    aside (s.mapSlots z f) = aside s := by
  unfold State.mapSlots
  apply aside_foldl
  intro s i
  split
  · exact aside_setSlot s i _ (h _ _)
  · rfl

/-! ## Slots -/

theorem slotSettings_enter (x : Slot) (st : SlotState) : slotSettings (x.enter st) = slotSettings x := by cases st <;> rfl

@[simp] theorem aside_redecide (s : State) (i : SlotId) : aside (s.redecide i) = aside s := by
  unfold State.redecide
  split
  · rfl
  · dsimp only
    split
    · rfl
    · exact aside_updSlot s i _ (fun _ => slotSettings_enter _ _)

@[simp] theorem aside_redecideAll (s : State) (l : List SlotId) : aside (s.redecideAll l) = aside s :=
  aside_foldl State.redecide aside_redecide l s

@[simp] theorem aside_setLaneRate (s : State) (l : Lane) (r : RateCode) : aside (s.setLaneRate l r) = aside s := by
  cases l <;> rfl

@[simp] theorem aside_setLaneRates (s : State) (z : ZoneId) (r : RateCode) : aside (s.setLaneRates z r) = aside s := by
  unfold State.setLaneRates
  apply aside_foldl
  intro s i
  split
  · simp
  · rfl

/-! ## Delays, matrices, blocks -/

@[simp] theorem aside_recompute (s : State) (z : ZoneId) (fresh : Bool) : aside (s.recompute z fresh) = aside s := by
  unfold State.recompute
  split
  · exact aside_updZone s z _ (fun _ => rfl)
  · rfl

@[simp] theorem aside_derive (s : State) (z : ZoneId) : aside (s.derive z) = aside s := by
  unfold State.derive
  split
  · rfl
  · exact aside_updZone s z _ (fun _ => rfl)

@[simp] theorem aside_dueDistances (s : State) (z : ZoneId) : aside (s.dueDistances z) = aside s := by
  unfold State.dueDistances
  split
  · rfl
  · apply aside_mapSlots
    intro r x
    split <;> rfl

theorem slotSettings_atBoundary (x : Slot) (z : Zone) (r : Role) : slotSettings (x.atBoundary z r) = slotSettings x := by
  unfold Slot.atBoundary
  dsimp only
  split <;> rfl

@[simp] theorem aside_beginBlock (s : State) (z : ZoneId) : aside (s.beginBlock z) = aside s := by
  unfold State.beginBlock
  dsimp only
  rw [aside_updZone _ _ _ (by intro x; rfl), aside_mapSlots]
  · split <;> split <;> simp
  · intro r x; exact slotSettings_atBoundary _ _ _

@[simp] theorem aside_beginRampBlock (s : State) (z : ZoneId) : aside (s.beginRampBlock z) = aside s := by
  unfold State.beginRampBlock
  rw [aside_updZone _ _ _ (by intro x; rfl), aside_mapSlots]
  intro r x; rfl

theorem slotSettings_start (x : Slot) (l : Layout) (role : Role) (r : RateCode) (a : Bool) :
    slotSettings (x.start l role r a) = slotSettings x := by
  cases a <;> rfl

/-! ## The zone controller -/

@[simp] theorem aside_enterRunning (s : State) (z : ZoneId) (r : RateCode) (m : List Role) (a : Bool) :
    aside (s.enterRunning z r m a) = aside s := by
  unfold State.enterRunning
  have h1 : ∀ x : State, aside (if (x.zone z).spanPos % Config.blockLength = 0 ∧ (x.zone z).spanPos < Config.spanLength
      then x.beginBlock z else x) = aside x := by intro x; split <;> simp
  have h2 : ∀ x : State, aside (if a || (s.zone z).map != some m || (x.zone z).stale then x.derive z else x) = aside x := by
    intro x; split <;> simp
  have h3 : ∀ x : State, aside (if a = true then x.recompute z true
      else x.updZone z fun y => { y with lines := List.replicate m.length [] }) = aside x := by
    intro x; split
    · simp
    · exact aside_updZone x z _ (fun _ => rfl)
  dsimp only
  rw [h1, aside_redecideAll, aside_setLaneRates, aside_mapSlots _ _ _ (fun _ _ => slotSettings_start _ _ _ _ _), h2, h3,
    aside_markZone, aside_updZone _ _ _ (by intro x; rfl)]

@[simp] theorem aside_enterHeld (s : State) (z : ZoneId) : aside (s.enterHeld z) = aside s := by
  unfold State.enterHeld
  have h : ∀ x : State, aside (if (x.zone z).lipsyncDue = true then x.recompute z false else x) = aside x := by
    intro x; split <;> simp
  dsimp only
  rw [aside_dueDistances, h, aside_updZone _ _ _ (by intro x; rfl)]

theorem aside_dropDecoder (free : DecoderId → State → State) (h : ∀ d s, aside (free d s) = aside s) (s : State) (z : ZoneId) :
    aside (s.dropDecoder free z) = aside s := by
  unfold State.dropDecoder
  split
  · rfl
  · dsimp only
    split
    · rw [h, aside_updZone _ _ _ (by intro x; rfl)]
    · rw [aside_updZone _ _ _ (by intro x; rfl)]

@[simp] theorem aside_await (s : State) (z : ZoneId) (r : Reason) : aside (s.await z r) = aside s := by
  unfold State.await
  dsimp only
  rw [aside_updZone _ _ _ (by intro x; rfl)]
  split <;> simp

@[simp] theorem aside_obtain (s : State) (z : ZoneId) (p : PortId) : aside (s.obtain z p) = aside s := by
  unfold State.obtain
  split
  · rfl
  · split
    · exact aside_updZone _ _ _ (by intro x; rfl)
    · split
      · rw [aside_updZone _ _ _ (by intro x; rfl)]; simp
      · split <;> simp

theorem aside_acquireWith (free : DecoderId → State → State) (h : ∀ d s, aside (free d s) = aside s) (s : State) (z : ZoneId) :
    aside (s.acquireWith free z) = aside s := by
  unfold State.acquireWith
  split
  · rfl
  · dsimp only
    split
    · simp
    · split
      · simp
      · split
        · simp
        · simp
        · simp [aside_dropDecoder free h]
        · split
          · simp
          · split <;> simp

@[simp] theorem aside_freeDecoderUp (d : DecoderId) (s : State) : aside (s.freeDecoderUp d) = aside s := by
  unfold State.freeDecoderUp
  dsimp only
  split
  · simp
  · split
    · simp
    · split
      · simp
      · rw [aside_foldl _ (fun s z => aside_acquireWith _ (fun d s => aside_updDecoder s d _) s z),
          aside_foldl _ (by intro s z; exact aside_updZone s z _ (fun _ => rfl))]
        simp

@[simp] theorem aside_acquire (s : State) (z : ZoneId) : aside (s.acquire z) = aside s :=
  aside_acquireWith _ (fun d s => aside_freeDecoderUp d s) s z

@[simp] theorem aside_leaveProgram (s : State) (z : ZoneId) (b : Bool) : aside (s.leaveProgram z b) = aside s := by
  unfold State.leaveProgram
  dsimp only
  split
  · rw [aside_dropDecoder _ (fun d s => aside_freeDecoderUp d s), aside_waitList, aside_updZone _ _ _ (by intro x; rfl)]
  · rw [aside_waitList, aside_updZone _ _ _ (by intro x; rfl)]

@[simp] theorem aside_becomeAcquiring (s : State) (z : ZoneId) (b : Bool) : aside (s.becomeAcquiring z b) = aside s := by
  unfold State.becomeAcquiring
  rw [aside_updZone _ _ _ (by intro x; rfl), aside_leaveProgram]

@[simp] theorem aside_toAcquiring (s : State) (z : ZoneId) (b : Bool) : aside (s.toAcquiring z b) = aside s := by
  unfold State.toAcquiring
  rw [aside_acquire, aside_becomeAcquiring]

@[simp] theorem aside_restartOn (s : State) (z : ZoneId) (h : Header) : aside (s.restartOn z h) = aside s := by
  unfold State.restartOn
  rw [aside_enterRunning, aside_becomeAcquiring]

@[simp] theorem aside_heldPortReport (s : State) (z : ZoneId) (p : Port) : aside (s.heldPortReport z p) = aside s := by
  unfold State.heldPortReport
  dsimp only
  repeat' split
  all_goals simp

@[simp] theorem aside_runningPortReport (s : State) (z : ZoneId) (p : Port) : aside (s.runningPortReport z p) = aside s := by
  unfold State.runningPortReport
  dsimp only
  repeat' split
  all_goals simp

@[simp] theorem aside_zonePortReport (p : PortId) (s : State) (z : ZoneId) : aside (s.zonePortReport p z) = aside s := by
  unfold State.zonePortReport
  repeat' split
  all_goals simp

@[simp] theorem aside_zoneDecoderReport (d : DecoderId) (s : State) (z : ZoneId) : aside (s.zoneDecoderReport d z) = aside s := by
  unfold State.zoneDecoderReport
  repeat' split
  all_goals simp

@[simp] theorem aside_decoderChanged (s : State) (d : DecoderId) (old : DecoderState) :
    aside (s.decoderChanged d old) = aside s := by
  unfold State.decoderChanged
  dsimp only
  split
  · rfl
  · rw [aside_foldl _ (fun s z => aside_zoneDecoderReport d s z)]
    split <;> simp

@[simp] theorem aside_decoderPortReport (s : State) (p : PortId) : aside (s.decoderPortReport p) = aside s := by
  unfold State.decoderPortReport
  split
  · rfl
  · simp

/-- A change of a port, reported: it touches nothing but what the zones play, and notices (R11, R12, R19 to R28). -/
@[simp] theorem aside_portChanged (s : State) (p : PortId) : aside (s.portChanged p) = aside s := by
  unfold State.portChanged
  rw [aside_decoderPortReport, aside_foldl _ (fun s z => aside_zonePortReport p s z), aside_markPort]

/-- A port written and its change reported: beside what the zones play, only that port's record differs. -/
theorem aside_updPort (s : State) (p : PortId) (f : Port → Port) : aside (s.updPort p f) = aside (s.setPort p (f (s.port p))) := by
  unfold State.updPort
  dsimp only
  split <;> simp

/-! ## What `offAir` keeps, field by field -/

theorem offAir_pending {s t : State} (h : offAir t = offAir s) : t.pending = s.pending := congrArg (·.pending) h
theorem offAir_ports {s t : State} (h : offAir t = offAir s) : t.ports = s.ports := congrArg (·.ports) h
theorem offAir_sources {s t : State} (h : offAir t = offAir s) : t.sources = s.sources := congrArg (·.sources) h
theorem offAir_prot {s t : State} (h : offAir t = offAir s) : t.prot = s.prot := congrArg (·.prot) h
theorem offAir_tuner {s t : State} (h : offAir t = offAir s) : t.tuner = s.tuner := congrArg (·.tuner) h
theorem offAir_stations {s t : State} (h : offAir t = offAir s) : t.stations = s.stations := congrArg (·.stations) h
theorem offAir_stationMemory {s t : State} (h : offAir t = offAir s) : t.stationMemory = s.stationMemory :=
  congrArg (·.stationMemory) h
theorem offAir_commands {s t : State} (h : offAir t = offAir s) : t.control.commands = s.control.commands :=
  congrArg (·.control.commands) h

/-- The settings of every zone are kept. -/
theorem offAir_zone {s t : State} (h : offAir t = offAir s) (z : ZoneId) : zoneSettings (t.zone z) = zoneSettings (s.zone z) := by
  have e : t.zones.map zoneSettings = s.zones.map zoneSettings := congrArg (·.zones) h
  simpa [State.zone] using congrArg (fun v => v[z]) e

/-- The settings of every slot are kept. -/
theorem offAir_slot {s t : State} (h : offAir t = offAir s) (i : SlotId) : slotSettings (t.slot i) = slotSettings (s.slot i) := by
  have e : t.slots.map slotSettings = s.slots.map slotSettings := congrArg (·.slots) h
  simpa [State.slot] using congrArg (fun v => v[i]) e

end Sys2Proof.Safety
end

