-- ==== Sys2Proof/Laws/Link.lean ====
section
/-! SUPPORT. What the link controller and the protection unit can do: beside notices, they touch the link record, the protection records
and what these tell the slots, and nothing else; of the command processor, only a host's enumeration that ends touches the reply kept for it.
And the bits of a mask of channels. -/

namespace Sys2Proof.Safety

open Sys2Proof.Machine

/-- `t` is `x` but for the link, the protection records, what they tell the slots, and notices not yet placed. -/
def Linkwise (x t : State) : Prop := offLink t = offLink x ∧ t.control = x.control

theorem Linkwise.refl (s : State) : Linkwise s s := ⟨rfl, rfl⟩

theorem Linkwise.trans {a b c : State} (h : Linkwise a b) (g : Linkwise b c) : Linkwise a c := ⟨g.1.trans h.1, g.2.trans h.2⟩

/-- What `offAir` keeps, `offLink` keeps. -/
theorem offLink_of_offAir {s t : State} (h : offAir t = offAir s) : offLink t = offLink s := by
  have e : ∀ x : State, offLink x = { offAir x with
      link := Link.reset, prot := State.reset.prot, slots := (offAir x).slots.map fun y => { y with reduction := 0 } } := by
    intro x
    show State.mk .. = State.mk ..
    congr 1
    simp only [offAir, Vector.map_map]
    rfl
  rw [e, e, h]

theorem Linkwise.of_aside {s t : State} (h : aside t = aside s) : Linkwise s t :=
  ⟨offLink_of_offAir (offAir_of_aside h), control_of_aside h⟩

/-- The end of an event after link operations: `Relinked`. -/
theorem relinked_settle {x y : State} (h : Linkwise x y) : Relinked x y.settle :=
  ⟨(offLink_of_offAir (offAir_settle y)).trans h.1, NoticesAdded.trans (.of_eq (by rw [h.2])) (settle_noted y).2⟩

/-! ## The records written -/

theorem linkwise_setLink (s : State) (l : Link) : Linkwise s (s.setLink l) := ⟨rfl, rfl⟩
theorem linkwise_setEntry (s : State) (k : EntryId) (e : Option Entry) : Linkwise s (s.setEntry k e) := ⟨rfl, rfl⟩
theorem linkwise_setProtModule (s : State) (k : EntryId) (m : Option ProtModule) : Linkwise s (s.setProtModule k m) := ⟨rfl, rfl⟩
theorem linkwise_markEntry (s : State) (k : EntryId) : Linkwise s (s.markEntry k) := ⟨rfl, rfl⟩
theorem linkwise_markProt (s : State) (id : Identity) (ch : Nat) : Linkwise s (s.markProt id ch) := ⟨rfl, rfl⟩
theorem linkwise_raise (s : State) (k : NoticeKind) : Linkwise s (s.raise k) := ⟨rfl, rfl⟩
theorem linkwise_updLink (s : State) (f : Link → Link) : Linkwise s (s.updLink f) := ⟨rfl, rfl⟩
theorem linkwise_setExchange (s : State) (x : Exchange) : Linkwise s (s.setExchange x) := ⟨rfl, rfl⟩
theorem linkwise_countLink (s : State) (f : LinkCounters → LinkCounters) : Linkwise s (s.countLink f) := ⟨rfl, rfl⟩
theorem linkwise_redecide (s : State) (i : SlotId) : Linkwise s (s.redecide i) := .of_aside (aside_redecide s i)
theorem linkwise_redecideAll (s : State) (l : List SlotId) : Linkwise s (s.redecideAll l) := .of_aside (aside_redecideAll s l)

theorem linkwise_foldl {α : Type} (f : State → α → State) (h : ∀ s a, Linkwise s (f s a)) (l : List α) (s : State) :
    Linkwise s (l.foldl f s) := by
  induction l generalizing s with
  | nil => exact .refl s
  | cons a l ih => exact (h s a).trans (ih _)

/-! ## Masks of channels (R134, R146) -/

theorem maskFold_getLsbD (l : List Nat) (m : Byte) (ch : Nat) (one : 1 ≤ ch) (eight : ch ≤ 8) :
    (l.foldl (fun m k => if k = 0 then m else m ||| (1#8 <<< (k - 1))) m).getLsbD (ch - 1) = (m.getLsbD (ch - 1) || decide (ch ∈ l)) := by
  induction l generalizing m with
  | nil => simp
  | cons k l ih =>
    rw [List.foldl_cons, ih]
    by_cases h : ch = k
    · subst h
      simp [show ch ≠ 0 by omega, show ch - 1 < 8 by omega]
    · by_cases z : k = 0
      · simp [z, show ch ≠ 0 by omega]
      · by_cases lt : ch - 1 < k - 1
        · simp [z, h, lt]
        · have : ch - 1 - (k - 1) ≠ 0 := by omega
          simp [z, h, lt, this]

/-- A channel is in the mask of the channels `l` exactly when it is one of them. -/
theorem channelMask_getLsbD (l : List Nat) (ch : Nat) (one : 1 ≤ ch) (eight : ch ≤ 8) :
    (channelMask l).getLsbD (ch - 1) = decide (ch ∈ l) := by
  rw [channelMask, maskFold_getLsbD l 0 ch one eight]
  simp

/-- The mute mask of a module's records holds the bit of channel `ch` exactly when its record is muted (R146). -/
theorem mutedMask_getLsbD (rs : List ProtRecord) (ch : Nat) (one : 1 ≤ ch) (eight : ch ≤ 8) :
    (mutedMask rs).getLsbD (ch - 1) = true ↔ MutedIn rs ch := by
  rw [mutedMask, channelMask_getLsbD _ ch one eight, decide_eq_true_iff, List.mem_filter, List.mem_range'_1, MutedIn]
  constructor
  · exact fun h => h.2
  · intro h
    refine ⟨⟨one, ?_⟩, h⟩
    have : ¬ rs.length ≤ ch - 1 := by
      intro g
      rw [List.getElem?_eq_none g] at h
      exact absurd h (by decide)
    omega

/-! ## Requests and promotion (R126, R127) -/

theorem linkwise_request (s : State) (id : Identity) (kind : TxnKind) (payload : Byte) : Linkwise s (s.request id kind payload) := by
  unfold State.request
  dsimp only
  split
  · exact .refl s
  · exact linkwise_setLink _ _

theorem linkwise_requestEnable (s : State) (id : Identity) : Linkwise s (s.requestEnable id) := linkwise_request _ _ _ _

/-- What State.bestMark answers is one of the marks. -/
theorem bestMark_mem {s : State} {l : List Txn} {b : Txn} (h : s.bestMark l = some b) : b ∈ l := by
  induction l generalizing b with
  | nil => simp [State.bestMark] at h
  | cons t ts ih =>
    unfold State.bestMark at h
    cases hb : s.bestMark ts with
    | none => rw [hb] at h; simp at h; simp [h]
    | some c =>
      rw [hb] at h
      simp only at h
      split at h <;> simp at h
      · simp [← h]
      · exact List.mem_cons_of_mem _ (h ▸ ih hb)

/-- A mark whose key is below that of every other mark is the one promoted (R126). -/
theorem bestMark_least {s : State} {l : List Txn} {y : Txn} (hy : y ∈ l) (h : ∀ m ∈ l, m ≠ y → s.markKey y < s.markKey m) :
    s.bestMark l = some y := by
  induction l with
  | nil => simp at hy
  | cons t ts ih =>
    unfold State.bestMark
    by_cases hin : y ∈ ts
    · rw [ih hin fun m hm => h m (List.mem_cons_of_mem _ hm)]
      by_cases e : t = y
      · subst e; simp
      · have := h t (List.mem_cons_self ..) e
        simp [Nat.not_le.mpr this]
    · obtain rfl : y = t := by simpa [hin] using hy
      cases hb : s.bestMark ts with
      | none => rfl
      | some b =>
        have bm := bestMark_mem hb
        have := h b (List.mem_cons_of_mem _ bm) fun e => hin (e ▸ bm)
        simp only []
        rw [if_pos (Nat.le_of_lt this)]

/-- The key of a mark reads the module table only. -/
theorem bestMark_congr {s t : State} (h : t.link.table = s.link.table) (l : List Txn) : t.bestMark l = s.bestMark l := by
  have key : t.markKey = s.markKey := by
    funext m
    simp only [State.markKey, State.presentEntry, State.entryOf, State.entry, h]
  induction l with
  | nil => rfl
  | cons m l ih => unfold State.bestMark; rw [ih, key]

theorem linkwise_promote (s : State) : Linkwise s s.promote := by
  unfold State.promote
  split
  · split
    · exact .refl s
    · exact linkwise_setLink _ _
  · exact .refl s

theorem linkwise_promoteN (n : Nat) (s : State) : Linkwise s (s.promoteN n) := by
  induction n generalizing s with
  | zero => exact .refl s
  | succ n ih => exact (linkwise_promote s).trans (ih _)

theorem linkwise_arbitrate (s : State) : Linkwise s s.arbitrate := by
  unfold State.arbitrate
  split
  · exact linkwise_updLink _ _
  · split
    · exact linkwise_updLink _ _
    · split
      · exact (linkwise_updLink s _).trans (linkwise_promote _)
      · split
        · exact linkwise_updLink _ _
        · exact linkwise_setExchange _ _

theorem linkwise_kickLink (s : State) : Linkwise s s.kickLink := by
  unfold State.kickLink
  split
  · exact linkwise_arbitrate s
  · exact .refl s

theorem linkwise_afterWindow (s : State) : Linkwise s s.afterWindow := by
  unfold State.afterWindow
  split
  · exact linkwise_setExchange _ _
  · exact linkwise_arbitrate s

/-- The end of an event that may start something on the link. -/
theorem relinked_settleLink {x y : State} (h : Linkwise x y) : Relinked x y.settleLink :=
  relinked_settle (h.trans (linkwise_kickLink y))

/-! ## The protection unit (R140, R146 to R148) -/

/-- A slot takes a reduction. -/
theorem linkwise_reduction (s : State) (i : SlotId) (n : Nat) : Linkwise s (s.setSlot i { s.slot i with reduction := n }) := by
  refine ⟨?_, rfl⟩
  have h := map_set_of_eq s.slots (fun y : Slot => ({ slotSettings y with reduction := 0 } : Slot)) i
    ({ s.slot i with reduction := n } : Slot) rfl
  exact congrArg (fun v => ({ offLink s with slots := v } : State)) h

theorem linkwise_protReport (s : State) (id : Identity) (ch : Nat) : Linkwise s (s.protReport id ch) := by
  unfold State.protReport
  split
  · exact .refl s
  · rename_i i _
    exact Linkwise.trans (linkwise_reduction s i _) (linkwise_redecide _ _)

theorem linkwise_requestMute (s : State) (k : EntryId) (id : Identity) : Linkwise s (s.requestMute k id) := by
  unfold State.requestMute
  split
  · exact .refl s
  · exact (linkwise_setProtModule s k _).trans (linkwise_request _ _ _ _)

theorem linkwise_protCommit (s : State) (k : EntryId) (id : Identity) (old new : ProtModule) (force : Bool) :
    Linkwise s (s.protCommit k id old new force) := by
  unfold State.protCommit
  dsimp only
  refine Linkwise.trans (linkwise_setProtModule s k (some new)) ?_
  have marks := linkwise_foldl (fun s ch => if channelNoticed old new ch then s.markProt id ch else s)
    (fun s ch => by
      split
      · exact linkwise_markProt _ _ _
      · exact .refl s) (List.range' 1 8)
  have reports := linkwise_foldl (fun s ch => if channelReported old new ch then s.protReport id ch else s)
    (fun s ch => by
      split
      · exact linkwise_protReport _ _ _
      · exact .refl s) (List.range' 1 8)
  refine (marks _).trans ((reports _).trans ?_)
  split
  · exact linkwise_requestMute _ _ _
  · exact .refl _

theorem linkwise_faultReport (s : State) (k : EntryId) (id : Identity) (items : List (FaultKind × Byte)) (temp : Int) :
    Linkwise s (s.faultReport k id items temp) := by
  unfold State.faultReport
  split
  · exact .refl s
  · exact linkwise_protCommit _ _ _ _ _ _

theorem linkwise_protAbsent (s : State) (k : EntryId) (id : Identity) : Linkwise s (s.protAbsent k id) := by
  unfold State.protAbsent
  split
  · exact .refl s
  · exact linkwise_protCommit _ _ _ _ _ _

theorem linkwise_protPresent (s : State) (k : EntryId) (id : Identity) (n : Nat) : Linkwise s (s.protPresent k id n) := by
  unfold State.protPresent
  split
  · exact (linkwise_setProtModule s k _).trans (linkwise_requestMute _ _ _)
  · exact linkwise_protCommit _ _ _ _ _ _

theorem linkwise_protCount (s : State) (k : EntryId) (id : Identity) (n : Nat) : Linkwise s (s.protCount k id n) := by
  unfold State.protCount
  split
  · exact .refl s
  · exact linkwise_protCommit _ _ _ _ _ _

/-! ## Presence, misses and replies (R124, R128, R130, R132, R133) -/

theorem linkwise_modulePresent (s : State) (w : Winner) (n : Nat) : Linkwise s (s.modulePresent w n) := by
  unfold State.modulePresent
  exact (linkwise_setEntry s _ _).trans <| (linkwise_markEntry _ _).trans <| (linkwise_protPresent _ _ _ _).trans <|
    (linkwise_redecideAll _ _).trans (linkwise_requestEnable _ _)

theorem linkwise_moduleAbsent (s : State) (k : EntryId) (e : Entry) : Linkwise s (s.moduleAbsent k e) := by
  unfold State.moduleAbsent
  exact (linkwise_setEntry s _ _).trans <| (linkwise_updLink _ _).trans <| (linkwise_promoteN _ _).trans <|
    (linkwise_markEntry _ _).trans <| (linkwise_redecideAll _ _).trans (linkwise_protAbsent _ _ _)

theorem linkwise_chargeMiss (s : State) (t : Txn) : Linkwise s (s.chargeMiss t).1 := by
  unfold State.chargeMiss
  split
  · exact .refl s
  · split
    · exact linkwise_moduleAbsent _ _ _
    · exact (linkwise_setEntry s _ _).trans (linkwise_updLink _ _)

theorem linkwise_afterFailure (s : State) (owed : Option Identity) : Linkwise s (s.afterFailure owed) := by
  unfold State.afterFailure
  split <;> exact linkwise_setExchange _ _

theorem linkwise_statusReply (s : State) (k : EntryId) (e : Entry) (reply : List Byte) : Linkwise s (s.statusReply k e reply) := by
  unfold State.statusReply
  dsimp only
  refine (linkwise_setEntry s k (some { e with
    supplyLow := (reply.getD 0 0).getLsbD 0, temperature := some (reply.getD 1 0).toInt
    faults := ((reply.drop 2).take e.faults.length).map FaultBits.ofByte })).trans ?_
  have h : ∀ (x : State) (items : List (FaultKind × Byte)) (t : Int),
      Linkwise x (if items.isEmpty then x else x.faultReport k e.identity items t) := by
    intro x items t
    split
    · exact .refl x
    · exact linkwise_faultReport _ _ _ _ _
  split
  · exact (h _ _ _).trans (linkwise_request _ _ _ _)
  · exact h _ _ _

theorem linkwise_descReply (s : State) (k : EntryId) (e : Entry) (n : Nat) : Linkwise s (s.descReply k e n) := by
  unfold State.descReply
  split
  · exact .refl s
  · exact (linkwise_setEntry s _ _).trans <| (linkwise_markEntry _ _).trans <| (linkwise_protCount _ _ _ _).trans
      (linkwise_redecideAll _ _)

theorem linkwise_txnRefused (s : State) (t : Txn) (again : Bool) : Linkwise s (s.txnRefused t again) := by
  unfold State.txnRefused
  dsimp only
  split
  · exact (linkwise_countLink s _).trans ((linkwise_chargeMiss _ t).trans (linkwise_afterFailure _ _))
  · exact (linkwise_countLink s _).trans (linkwise_setExchange _ _)

theorem linkwise_txnAcknowledged (s : State) (t : Txn) (again : Bool) (reply : List Byte) :
    Linkwise s (s.txnAcknowledged t again reply) := by
  unfold State.txnAcknowledged
  split
  · exact linkwise_setExchange _ _
  · split
    · exact .refl s
    · split
      · exact linkwise_txnRefused _ _ _
      · dsimp only
        split
        · exact (linkwise_setEntry s _ _).trans <| (linkwise_countLink _ _).trans <|
            (linkwise_statusReply _ _ _ _).trans (linkwise_setExchange _ _)
        · exact (linkwise_setEntry s _ _).trans <| (linkwise_countLink _ _).trans <|
            (linkwise_descReply _ _ _ _).trans (linkwise_setExchange _ _)
        · exact (linkwise_setEntry s _ _).trans <| (linkwise_countLink _ _).trans (linkwise_setExchange _ _)

/-! ## Recovery, polls and requests of modules (R129, R131, R134, R135) -/

theorem linkwise_stallEnds (s : State) : Linkwise s s.stallEnds.1 := by
  unfold State.stallEnds
  split
  · exact linkwise_chargeMiss _ _
  · exact .refl s

/-- The line is free outside a round: only what is owed, or the window, follows. -/
theorem linkwise_lineFreed (s : State) (owed : Option Identity) : Linkwise s (s.lineFreed owed false) := linkwise_afterFailure s owed

theorem linkwise_pollEnds (s : State) (k : EntryId) (e : Entry) : Linkwise (s.reach e.polled Config.pollMs) (s.pollEnds k e) :=
  (linkwise_setEntry _ k _).trans (linkwise_request _ _ _ _)

theorem linkwise_acknowledge (s : State) (ack : Bool) : Linkwise s (s.acknowledge ack) := ⟨rfl, rfl⟩

theorem linkwise_discardRequest (s : State) : Linkwise s s.discardRequest := ⟨rfl, rfl⟩

theorem linkwise_takeJoin (s : State) : Linkwise s s.takeJoin := ⟨rfl, rfl⟩

theorem linkwise_takeFault (s : State) (a : BitVec 3) (fault mask value : Byte) : Linkwise s (s.takeFault a fault mask value) := by
  unfold State.takeFault
  split
  · dsimp only
    split
    · exact (linkwise_acknowledge s true).trans (linkwise_discardRequest _)
    · exact (linkwise_acknowledge s true).trans ((linkwise_setEntry _ _ _).trans (linkwise_faultReport _ _ _ _ _))
  · exact (linkwise_acknowledge s true).trans (linkwise_discardRequest _)
  · exact (linkwise_acknowledge s false).trans (linkwise_discardRequest _)

end Sys2Proof.Safety
end

