-- ==== Sys2Proof/Laws/PerInstr.lean ====
section
/-! SUPPORT. Each constructor of Instr is the command of one row of spec/opcode_table.json, whatever its operands are. -/

namespace Sys2Proof.Laws

/-- The mnemonics of spec/opcode_table.json, in the table's order: rows 0 to 22. -/
def tableRows1 : List String :=
  [
    "HARD_RESET", "INITIALISATION_END", "STATUS_TRANSFER", "WRITE_TRANSFER", "READ_TRANSFER", "OTHER_TRANSFER",
    "UNKNOWN_COMMAND_KIND", "SYS_RESET", "NOTE_MASK", "SRC_DEFINE", "SRC_ENABLE", "SRC_QUERY",
    "CLOCK_SEEN", "RATE_RECOGNITION_CHANGE", "STABILITY_TIMER_EXPIRY", "CLOCK_LOST", "RATE_CHANGE", "WORD_TAKEN",
    "WORD_COUNT_LIMIT", "CHANNEL_STATUS_BLOCK", "ZONE_POWER", "ZONE_SOURCE", "ZONE_VOLUME"]

/-- The mnemonics of spec/opcode_table.json, in the table's order: rows 23 to 45. -/
def tableRows2 : List String :=
  [
    "ZONE_MAXVOL", "ZONE_MUTE", "ZONE_PUSH", "ZONE_POP", "ZONE_ANNOUNCE", "ZONE_LIPSYNC",
    "ZONE_DRC", "ZONE_UPMIX", "ZONE_QUERY", "ZONE_FLAGS_CLEAR", "HOLD_TIMER_EXPIRY", "DEC_QUERY",
    "SPAN_BOUNDARY", "ZONE_SAMPLE_PERIOD", "BLOCK_BOUNDARY", "RAMP_OUT_END", "LAYOUT_SET", "XOVER_LOAD",
    "MATRIX_LOAD", "MATRIX_MODE", "SLOT_ASSIGN", "SLOT_RELEASE", "SLOT_DISTANCE"]

/-- The mnemonics of spec/opcode_table.json, in the table's order: rows 46 to 68. -/
def tableRows3 : List String :=
  [
    "SLOT_TRIM", "SLOT_LIMIT", "SLOT_QUERY", "LINK_START", "LINK_ENUM", "LINK_RESET",
    "LINK_QUERY", "TRANSACTION_COMPLETE", "ABSENT_RELEASE_ASSIGN", "LINK_STALL", "STALL_RECOVERY_REPEAT", "POLL_TIMER_EXPIRY",
    "REQUEST_WINDOW", "FAULT_REQUEST", "JOIN_REQUEST", "IDENTITY_RESPONSE", "ASSIGN_COMPLETE", "ROUND_READ_DESC",
    "PROT_RESET", "PROT_QUERY", "HOLDOFF_EXPIRY", "TUN_POWER", "TUN_REGION"]

/-- The mnemonics of spec/opcode_table.json, in the table's order: rows 69 to 91. -/
def tableRows4 : List String :=
  [
    "TUN_THRESHOLD", "TUN_TUNE", "TUN_SEEK", "TUN_SCAN", "TUN_ABORT", "TUN_QUERY",
    "STLIST_READ", "STLIST_CLEAR", "TUNER_TRANSACTION_COMPLETE", "SETTLE_TIME_EXPIRY", "ALIGNMENT_SEARCH_EXPIRY", "QUALITY_WAIT_EXPIRY",
    "MONITOR_READ", "ALTERNATE_IDENT_GROUP", "ALTERNATE_IDENT_TIMEOUT", "STMEM_LOCKMODE", "STMEM_PRESET", "STMEM_UNLOCK",
    "STMEM_FLUSH", "STMEM_QUERY", "STATION_DATA_GROUP", "ANNOUNCEMENT_TIMEOUT", "GROUP_TIMER_EXPIRY"]

/-- The mnemonics of spec/opcode_table.json, in the table's order. -/
def tableRows : List String := tableRows1 ++ tableRows2 ++ tableRows3 ++ tableRows4

/-- The row of a command in spec/opcode_table.json, counted from 0. -/
def rowOf : Instr → Nat
  | .hardReset => 0
  | .initialisationEnd => 1
  | .statusTransfer => 2
  | .writeTransfer .. => 3
  | .readTransfer .. => 4
  | .otherTransfer .. => 5
  | .unknownCommandKind => 6
  | .sysReset => 7
  | .noteMask => 8
  | .srcDefine => 9
  | .srcEnable => 10
  | .srcQuery => 11
  | .clockSeen .. => 12
  | .rateRecognitionChange .. => 13
  | .stabilityTimerExpiry .. => 14
  | .clockLost .. => 15
  | .rateChange .. => 16
  | .wordTaken .. => 17
  | .wordCountLimit .. => 18
  | .channelStatusBlock .. => 19
  | .zonePower => 20
  | .zoneSource => 21
  | .zoneVolume => 22
  | .zoneMaxvol => 23
  | .zoneMute => 24
  | .zonePush => 25
  | .zonePop => 26
  | .zoneAnnounce => 27
  | .zoneLipsync => 28
  | .zoneDrc => 29
  | .zoneUpmix => 30
  | .zoneQuery => 31
  | .zoneFlagsClear => 32
  | .holdTimerExpiry .. => 33
  | .decQuery => 34
  | .spanBoundary .. => 35
  | .zoneSamplePeriod .. => 36
  | .blockBoundary .. => 37
  | .rampOutEnd .. => 38
  | .layoutSet => 39
  | .xoverLoad => 40
  | .matrixLoad => 41
  | .matrixMode => 42
  | .slotAssign => 43
  | .slotRelease => 44
  | .slotDistance => 45
  | .slotTrim => 46
  | .slotLimit => 47
  | .slotQuery => 48
  | .linkStart => 49
  | .linkEnum => 50
  | .linkReset => 51
  | .linkQuery => 52
  | .transactionComplete .. => 53
  | .absentReleaseAssign => 54
  | .linkStall .. => 55
  | .stallRecoveryRepeat .. => 56
  | .pollTimerExpiry .. => 57
  | .requestWindow .. => 58
  | .faultRequest .. => 59
  | .joinRequest => 60
  | .identityResponse .. => 61
  | .assignComplete .. => 62
  | .roundReadDesc .. => 63
  | .protReset => 64
  | .protQuery => 65
  | .holdoffExpiry .. => 66
  | .tunPower .. => 67
  | .tunRegion => 68
  | .tunThreshold => 69
  | .tunTune => 70
  | .tunSeek => 71
  | .tunScan => 72
  | .tunAbort => 73
  | .tunQuery => 74
  | .stlistRead => 75
  | .stlistClear => 76
  | .tunerTransactionComplete .. => 77
  | .settleTimeExpiry => 78
  | .alignmentSearchExpiry => 79
  | .qualityWaitExpiry => 80
  | .monitorRead .. => 81
  | .alternateIdentGroup .. => 82
  | .alternateIdentTimeout => 83
  | .stmemLockmode => 84
  | .stmemPreset => 85
  | .stmemUnlock => 86
  | .stmemFlush => 87
  | .stmemQuery => 88
  | .stationDataGroup .. => 89
  | .announcementTimeout => 90
  | .groupTimerExpiry => 91

/-- The mnemonic of a command. -/
def mnemonicOf : Instr → String
  | .hardReset => "HARD_RESET"
  | .initialisationEnd => "INITIALISATION_END"
  | .statusTransfer => "STATUS_TRANSFER"
  | .writeTransfer .. => "WRITE_TRANSFER"
  | .readTransfer .. => "READ_TRANSFER"
  | .otherTransfer .. => "OTHER_TRANSFER"
  | .unknownCommandKind => "UNKNOWN_COMMAND_KIND"
  | .sysReset => "SYS_RESET"
  | .noteMask => "NOTE_MASK"
  | .srcDefine => "SRC_DEFINE"
  | .srcEnable => "SRC_ENABLE"
  | .srcQuery => "SRC_QUERY"
  | .clockSeen .. => "CLOCK_SEEN"
  | .rateRecognitionChange .. => "RATE_RECOGNITION_CHANGE"
  | .stabilityTimerExpiry .. => "STABILITY_TIMER_EXPIRY"
  | .clockLost .. => "CLOCK_LOST"
  | .rateChange .. => "RATE_CHANGE"
  | .wordTaken .. => "WORD_TAKEN"
  | .wordCountLimit .. => "WORD_COUNT_LIMIT"
  | .channelStatusBlock .. => "CHANNEL_STATUS_BLOCK"
  | .zonePower => "ZONE_POWER"
  | .zoneSource => "ZONE_SOURCE"
  | .zoneVolume => "ZONE_VOLUME"
  | .zoneMaxvol => "ZONE_MAXVOL"
  | .zoneMute => "ZONE_MUTE"
  | .zonePush => "ZONE_PUSH"
  | .zonePop => "ZONE_POP"
  | .zoneAnnounce => "ZONE_ANNOUNCE"
  | .zoneLipsync => "ZONE_LIPSYNC"
  | .zoneDrc => "ZONE_DRC"
  | .zoneUpmix => "ZONE_UPMIX"
  | .zoneQuery => "ZONE_QUERY"
  | .zoneFlagsClear => "ZONE_FLAGS_CLEAR"
  | .holdTimerExpiry .. => "HOLD_TIMER_EXPIRY"
  | .decQuery => "DEC_QUERY"
  | .spanBoundary .. => "SPAN_BOUNDARY"
  | .zoneSamplePeriod .. => "ZONE_SAMPLE_PERIOD"
  | .blockBoundary .. => "BLOCK_BOUNDARY"
  | .rampOutEnd .. => "RAMP_OUT_END"
  | .layoutSet => "LAYOUT_SET"
  | .xoverLoad => "XOVER_LOAD"
  | .matrixLoad => "MATRIX_LOAD"
  | .matrixMode => "MATRIX_MODE"
  | .slotAssign => "SLOT_ASSIGN"
  | .slotRelease => "SLOT_RELEASE"
  | .slotDistance => "SLOT_DISTANCE"
  | .slotTrim => "SLOT_TRIM"
  | .slotLimit => "SLOT_LIMIT"
  | .slotQuery => "SLOT_QUERY"
  | .linkStart => "LINK_START"
  | .linkEnum => "LINK_ENUM"
  | .linkReset => "LINK_RESET"
  | .linkQuery => "LINK_QUERY"
  | .transactionComplete .. => "TRANSACTION_COMPLETE"
  | .absentReleaseAssign => "ABSENT_RELEASE_ASSIGN"
  | .linkStall .. => "LINK_STALL"
  | .stallRecoveryRepeat .. => "STALL_RECOVERY_REPEAT"
  | .pollTimerExpiry .. => "POLL_TIMER_EXPIRY"
  | .requestWindow .. => "REQUEST_WINDOW"
  | .faultRequest .. => "FAULT_REQUEST"
  | .joinRequest => "JOIN_REQUEST"
  | .identityResponse .. => "IDENTITY_RESPONSE"
  | .assignComplete .. => "ASSIGN_COMPLETE"
  | .roundReadDesc .. => "ROUND_READ_DESC"
  | .protReset => "PROT_RESET"
  | .protQuery => "PROT_QUERY"
  | .holdoffExpiry .. => "HOLDOFF_EXPIRY"
  | .tunPower .. => "TUN_POWER"
  | .tunRegion => "TUN_REGION"
  | .tunThreshold => "TUN_THRESHOLD"
  | .tunTune => "TUN_TUNE"
  | .tunSeek => "TUN_SEEK"
  | .tunScan => "TUN_SCAN"
  | .tunAbort => "TUN_ABORT"
  | .tunQuery => "TUN_QUERY"
  | .stlistRead => "STLIST_READ"
  | .stlistClear => "STLIST_CLEAR"
  | .tunerTransactionComplete .. => "TUNER_TRANSACTION_COMPLETE"
  | .settleTimeExpiry => "SETTLE_TIME_EXPIRY"
  | .alignmentSearchExpiry => "ALIGNMENT_SEARCH_EXPIRY"
  | .qualityWaitExpiry => "QUALITY_WAIT_EXPIRY"
  | .monitorRead .. => "MONITOR_READ"
  | .alternateIdentGroup .. => "ALTERNATE_IDENT_GROUP"
  | .alternateIdentTimeout => "ALTERNATE_IDENT_TIMEOUT"
  | .stmemLockmode => "STMEM_LOCKMODE"
  | .stmemPreset => "STMEM_PRESET"
  | .stmemUnlock => "STMEM_UNLOCK"
  | .stmemFlush => "STMEM_FLUSH"
  | .stmemQuery => "STMEM_QUERY"
  | .stationDataGroup .. => "STATION_DATA_GROUP"
  | .announcementTimeout => "ANNOUNCEMENT_TIMEOUT"
  | .groupTimerExpiry => "GROUP_TIMER_EXPIRY"

/-- A command stands in its row of the table, under its mnemonic. -/
def TableRow.Statement (i : Instr) : Prop := tableRows[rowOf i]? = some (mnemonicOf i)

theorem TableRow.hardReset : TableRow.Statement (.hardReset) := rfl
theorem TableRow.initialisationEnd : TableRow.Statement (.initialisationEnd) := rfl
theorem TableRow.statusTransfer : TableRow.Statement (.statusTransfer) := rfl
theorem TableRow.writeTransfer (bytes : List Byte) : TableRow.Statement (.writeTransfer bytes) := rfl
theorem TableRow.readTransfer (clocked : Nat) : TableRow.Statement (.readTransfer clocked) := rfl
theorem TableRow.otherTransfer (first : Byte) (clocked : Nat) : TableRow.Statement (.otherTransfer first clocked) := rfl
theorem TableRow.unknownCommandKind : TableRow.Statement (.unknownCommandKind) := rfl
theorem TableRow.sysReset : TableRow.Statement (.sysReset) := rfl
theorem TableRow.noteMask : TableRow.Statement (.noteMask) := rfl
theorem TableRow.srcDefine : TableRow.Statement (.srcDefine) := rfl
theorem TableRow.srcEnable : TableRow.Statement (.srcEnable) := rfl
theorem TableRow.srcQuery : TableRow.Statement (.srcQuery) := rfl
theorem TableRow.clockSeen (p : PortId) : TableRow.Statement (.clockSeen p) := rfl
theorem TableRow.rateRecognitionChange (p : PortId) (measured : Nat) : TableRow.Statement (.rateRecognitionChange p measured) := rfl
theorem TableRow.stabilityTimerExpiry (p : PortId) : TableRow.Statement (.stabilityTimerExpiry p) := rfl
theorem TableRow.clockLost (p : PortId) : TableRow.Statement (.clockLost p) := rfl
theorem TableRow.rateChange (p : PortId) (measured : Nat) : TableRow.Statement (.rateChange p measured) := rfl
theorem TableRow.wordTaken (p : PortId) (w : InputWord) : TableRow.Statement (.wordTaken p w) := rfl
theorem TableRow.wordCountLimit (p : PortId) (w : InputWord) : TableRow.Statement (.wordCountLimit p w) := rfl
theorem TableRow.channelStatusBlock (p : PortId) (nonAudio : Bool) : TableRow.Statement (.channelStatusBlock p nonAudio) := rfl
theorem TableRow.zonePower : TableRow.Statement (.zonePower) := rfl
theorem TableRow.zoneSource : TableRow.Statement (.zoneSource) := rfl
theorem TableRow.zoneVolume : TableRow.Statement (.zoneVolume) := rfl
theorem TableRow.zoneMaxvol : TableRow.Statement (.zoneMaxvol) := rfl
theorem TableRow.zoneMute : TableRow.Statement (.zoneMute) := rfl
theorem TableRow.zonePush : TableRow.Statement (.zonePush) := rfl
theorem TableRow.zonePop : TableRow.Statement (.zonePop) := rfl
theorem TableRow.zoneAnnounce : TableRow.Statement (.zoneAnnounce) := rfl
theorem TableRow.zoneLipsync : TableRow.Statement (.zoneLipsync) := rfl
theorem TableRow.zoneDrc : TableRow.Statement (.zoneDrc) := rfl
theorem TableRow.zoneUpmix : TableRow.Statement (.zoneUpmix) := rfl
theorem TableRow.zoneQuery : TableRow.Statement (.zoneQuery) := rfl
theorem TableRow.zoneFlagsClear : TableRow.Statement (.zoneFlagsClear) := rfl
theorem TableRow.holdTimerExpiry (z : ZoneId) : TableRow.Statement (.holdTimerExpiry z) := rfl
theorem TableRow.decQuery : TableRow.Statement (.decQuery) := rfl
theorem TableRow.spanBoundary (d : DecoderId) : TableRow.Statement (.spanBoundary d) := rfl
theorem TableRow.zoneSamplePeriod (z : ZoneId) (words : List InputWord) : TableRow.Statement (.zoneSamplePeriod z words) := rfl
theorem TableRow.blockBoundary (z : ZoneId) : TableRow.Statement (.blockBoundary z) := rfl
theorem TableRow.rampOutEnd (z : ZoneId) : TableRow.Statement (.rampOutEnd z) := rfl
theorem TableRow.layoutSet : TableRow.Statement (.layoutSet) := rfl
theorem TableRow.xoverLoad : TableRow.Statement (.xoverLoad) := rfl
theorem TableRow.matrixLoad : TableRow.Statement (.matrixLoad) := rfl
theorem TableRow.matrixMode : TableRow.Statement (.matrixMode) := rfl
theorem TableRow.slotAssign : TableRow.Statement (.slotAssign) := rfl
theorem TableRow.slotRelease : TableRow.Statement (.slotRelease) := rfl
theorem TableRow.slotDistance : TableRow.Statement (.slotDistance) := rfl
theorem TableRow.slotTrim : TableRow.Statement (.slotTrim) := rfl
theorem TableRow.slotLimit : TableRow.Statement (.slotLimit) := rfl
theorem TableRow.slotQuery : TableRow.Statement (.slotQuery) := rfl
theorem TableRow.linkStart : TableRow.Statement (.linkStart) := rfl
theorem TableRow.linkEnum : TableRow.Statement (.linkEnum) := rfl
theorem TableRow.linkReset : TableRow.Statement (.linkReset) := rfl
theorem TableRow.linkQuery : TableRow.Statement (.linkQuery) := rfl
theorem TableRow.transactionComplete (r : LinkResult) : TableRow.Statement (.transactionComplete r) := rfl
theorem TableRow.absentReleaseAssign : TableRow.Statement (.absentReleaseAssign) := rfl
theorem TableRow.linkStall (freed : Bool) : TableRow.Statement (.linkStall freed) := rfl
theorem TableRow.stallRecoveryRepeat (freed : Bool) : TableRow.Statement (.stallRecoveryRepeat freed) := rfl
theorem TableRow.pollTimerExpiry (k : EntryId) : TableRow.Statement (.pollTimerExpiry k) := rfl
theorem TableRow.requestWindow (addresses : List (BitVec 3)) : TableRow.Statement (.requestWindow addresses) := rfl
theorem TableRow.faultRequest (kind fault mask value : Byte) : TableRow.Statement (.faultRequest kind fault mask value) := rfl
theorem TableRow.joinRequest : TableRow.Statement (.joinRequest) := rfl
theorem TableRow.identityResponse (identity : Identity) : TableRow.Statement (.identityResponse identity) := rfl
theorem TableRow.assignComplete (acknowledged : Bool) : TableRow.Statement (.assignComplete acknowledged) := rfl
theorem TableRow.roundReadDesc (reply : Option Byte) : TableRow.Statement (.roundReadDesc reply) := rfl
theorem TableRow.protReset : TableRow.Statement (.protReset) := rfl
theorem TableRow.protQuery : TableRow.Statement (.protQuery) := rfl
theorem TableRow.holdoffExpiry (k : EntryId) (ch : Fin 8) : TableRow.Statement (.holdoffExpiry k ch) := rfl
theorem TableRow.tunPower (probe : Bool) : TableRow.Statement (.tunPower probe) := rfl
theorem TableRow.tunRegion : TableRow.Statement (.tunRegion) := rfl
theorem TableRow.tunThreshold : TableRow.Statement (.tunThreshold) := rfl
theorem TableRow.tunTune : TableRow.Statement (.tunTune) := rfl
theorem TableRow.tunSeek : TableRow.Statement (.tunSeek) := rfl
theorem TableRow.tunScan : TableRow.Statement (.tunScan) := rfl
theorem TableRow.tunAbort : TableRow.Statement (.tunAbort) := rfl
theorem TableRow.tunQuery : TableRow.Statement (.tunQuery) := rfl
theorem TableRow.stlistRead : TableRow.Statement (.stlistRead) := rfl
theorem TableRow.stlistClear : TableRow.Statement (.stlistClear) := rfl
theorem TableRow.tunerTransactionComplete (r : TunerResult) : TableRow.Statement (.tunerTransactionComplete r) := rfl
theorem TableRow.settleTimeExpiry : TableRow.Statement (.settleTimeExpiry) := rfl
theorem TableRow.alignmentSearchExpiry : TableRow.Statement (.alignmentSearchExpiry) := rfl
theorem TableRow.qualityWaitExpiry : TableRow.Statement (.qualityWaitExpiry) := rfl
theorem TableRow.monitorRead (reading : Option Reading) : TableRow.Statement (.monitorRead reading) := rfl
theorem TableRow.alternateIdentGroup (group : List Byte) : TableRow.Statement (.alternateIdentGroup group) := rfl
theorem TableRow.alternateIdentTimeout : TableRow.Statement (.alternateIdentTimeout) := rfl
theorem TableRow.stmemLockmode : TableRow.Statement (.stmemLockmode) := rfl
theorem TableRow.stmemPreset : TableRow.Statement (.stmemPreset) := rfl
theorem TableRow.stmemUnlock : TableRow.Statement (.stmemUnlock) := rfl
theorem TableRow.stmemFlush : TableRow.Statement (.stmemFlush) := rfl
theorem TableRow.stmemQuery : TableRow.Statement (.stmemQuery) := rfl
theorem TableRow.stationDataGroup (group : List Byte) : TableRow.Statement (.stationDataGroup group) := rfl
theorem TableRow.announcementTimeout : TableRow.Statement (.announcementTimeout) := rfl
theorem TableRow.groupTimerExpiry : TableRow.Statement (.groupTimerExpiry) := rfl

end Sys2Proof.Laws
end

