-- ==== Sys2Proof/Laws/Play.lean ====
section
/-! SUPPORT. What an entry to RUNNING leaves in a zone's record, and that it leaves the records of the other zones: the spec lemmas of
State.enterRunning on a fresh entry, of State.restartOn and of a span boundary. -/

namespace Sys2Proof.Safety

open Sys2Proof.Machine

/-! ## Zone records under one operation -/

@[simp] theorem zone_markZone (s : State) (z z' : ZoneId) : (s.markZone z).zone z' = s.zone z' := rfl
@[simp] theorem zone_markSlot (s : State) (i : SlotId) (z' : ZoneId) : (s.markSlot i).zone z' = s.zone z' := rfl
@[simp] theorem zone_markFormat (s : State) (d : DecoderId) (z' : ZoneId) : (s.markFormat d).zone z' = s.zone z' := rfl
@[simp] theorem zone_waitList (s : State) (l : List ZoneId) (z' : ZoneId) : ({ s with waitList := l } : State).zone z' = s.zone z' := rfl

@[simp] theorem zone_updZone_self (s : State) (z : ZoneId) (f : Zone → Zone) : (s.updZone z f).zone z = f (s.zone z) := by
  unfold State.updZone
  dsimp only
  split <;> simp

theorem zone_updZone_ne (s : State) (z z' : ZoneId) (f : Zone → Zone) (h : z' ≠ z) : (s.updZone z f).zone z' = s.zone z' := by
  unfold State.updZone
  dsimp only
  split <;> simp [State.zone_setZone_ne _ _ _ _ h]

@[simp] theorem zone_updSlot (s : State) (i : SlotId) (f : Slot → Slot) (z' : ZoneId) : (s.updSlot i f).zone z' = s.zone z' := by
  unfold State.updSlot
  dsimp only
  split <;> simp

/-- A run of steps none of which touches a zone's record. -/
theorem zone_foldl {α : Type} (f : State → α → State) (z : ZoneId) (h : ∀ s a, (f s a).zone z = s.zone z) (l : List α) (s : State) :
    (l.foldl f s).zone z = s.zone z := by
  induction l generalizing s with
  | nil => rfl
  | cons a l ih => exact (ih (f s a)).trans (h s a)

@[simp] theorem zone_mapSlots (s : State) (z : ZoneId) (f : Role → Slot → Slot) (z' : ZoneId) : (s.mapSlots z f).zone z' = s.zone z' := by
  unfold State.mapSlots
  apply zone_foldl
  intro s i
  split <;> simp

@[simp] theorem zone_dueDistances (s : State) (z z' : ZoneId) : (s.dueDistances z).zone z' = s.zone z' := by
  unfold State.dueDistances
  split <;> simp

@[simp] theorem zone_redecideAll (s : State) (l : List SlotId) (z' : ZoneId) : (s.redecideAll l).zone z' = s.zone z' := by
  unfold State.redecideAll
  apply zone_foldl
  intro s i
  unfold State.redecide
  split
  · rfl
  · dsimp only
    split <;> simp

@[simp] theorem zone_setLaneRates (s : State) (z : ZoneId) (r : RateCode) (z' : ZoneId) : (s.setLaneRates z r).zone z' = s.zone z' := by
  unfold State.setLaneRates
  apply zone_foldl
  intro s i
  split
  · rename_i a _
    cases a.dest.lane <;> rfl
  · rfl

/-! ## Sources and decoders are not touched -/

theorem sources_of_aside {s t : State} (h : aside t = aside s) : t.sources = s.sources := congrArg (·.sources) h

/-- A slot and what its zone plays do not change a decoder. -/
@[simp] theorem decoders_updZone (s : State) (z : ZoneId) (f : Zone → Zone) : (s.updZone z f).decoders = s.decoders := by
  unfold State.updZone
  dsimp only
  split <;> rfl

@[simp] theorem decoders_waitList (s : State) (l : List ZoneId) : ({ s with waitList := l } : State).decoders = s.decoders := rfl
@[simp] theorem decoders_markZone (s : State) (z : ZoneId) : (s.markZone z).decoders = s.decoders := rfl

/-! ## The other zones -/

theorem recompute_zone_ne (s : State) (z z' : ZoneId) (fresh : Bool) (h : z' ≠ z) : (s.recompute z fresh).zone z' = s.zone z' := by
  unfold State.recompute
  split
  · exact zone_updZone_ne _ _ _ _ h
  · rfl

theorem derive_zone_ne (s : State) (z z' : ZoneId) (h : z' ≠ z) : (s.derive z).zone z' = s.zone z' := by
  unfold State.derive
  split
  · rfl
  · exact zone_updZone_ne _ _ _ _ h

theorem beginBlock_zone_ne (s : State) (z z' : ZoneId) (h : z' ≠ z) : (s.beginBlock z).zone z' = s.zone z' := by
  unfold State.beginBlock
  dsimp only
  rw [zone_updZone_ne _ _ _ _ h, zone_mapSlots]
  split <;> split <;> simp [derive_zone_ne _ _ _ h, recompute_zone_ne _ _ _ _ h]

/-- An entry to RUNNING leaves the other zones' records (R20). -/
theorem enterRunning_zone_ne (s : State) (z z' : ZoneId) (r : RateCode) (m : List Role) (a : Bool) (h : z' ≠ z) :
    (s.enterRunning z r m a).zone z' = s.zone z' := by
  unfold State.enterRunning
  have h1 : ∀ x : State, (if (x.zone z).spanPos % Config.blockLength = 0 ∧ (x.zone z).spanPos < Config.spanLength
      then x.beginBlock z else x).zone z' = x.zone z' := by intro x; split <;> simp [beginBlock_zone_ne _ _ _ h]
  have h2 : ∀ x : State, (if a || (s.zone z).map != some m || (x.zone z).stale then x.derive z else x).zone z' = x.zone z' := by
    intro x; split <;> simp [derive_zone_ne _ _ _ h]
  have h3 : ∀ x : State, (if a = true then x.recompute z true
      else x.updZone z fun y => { y with lines := List.replicate m.length [] }).zone z' = x.zone z' := by
    intro x; split
    · exact recompute_zone_ne _ _ _ _ h
    · exact zone_updZone_ne _ _ _ _ h
  dsimp only
  rw [h1, zone_redecideAll, zone_setLaneRates, zone_mapSlots, h2, h3, zone_markZone, zone_updZone_ne _ _ _ _ h]

/-- A zone that leaves its program and keeps its decoder leaves the other zones' records (R23). -/
theorem leaveProgram_zone_ne (s : State) (z z' : ZoneId) (h : z' ≠ z) : (s.leaveProgram z false).zone z' = s.zone z' := by
  unfold State.leaveProgram
  dsimp only
  rw [if_neg Bool.false_ne_true, zone_waitList, zone_updZone_ne _ _ _ _ h]

theorem becomeAcquiring_zone_ne (s : State) (z z' : ZoneId) (h : z' ≠ z) : (s.becomeAcquiring z false).zone z' = s.zone z' := by
  unfold State.becomeAcquiring
  rw [zone_updZone_ne _ _ _ _ h, leaveProgram_zone_ne _ _ _ h]

/-- A user that restarts leaves the other zones' records (R21, R55). -/
theorem restartOn_zone_ne (s : State) (z z' : ZoneId) (hd : Header) (h : z' ≠ z) : (s.restartOn z hd).zone z' = s.zone z' := by
  unfold State.restartOn
  rw [enterRunning_zone_ne _ _ _ _ _ _ h, becomeAcquiring_zone_ne _ _ _ h]

/-- What a span boundary does to one user leaves the other zones' records (R55). -/
theorem userSpan_zone_ne (d : DecoderId) (remapped : Option Header) (folds : Bool) (s : State) (z z' : ZoneId) (h : z' ≠ z) :
    (State.userSpan d remapped folds s z).zone z' = s.zone z' := by
  unfold State.userSpan
  split
  · dsimp only
    split
    · exact zone_updZone_ne _ _ _ _ h
    · split
      · rw [zone_updZone_ne _ _ _ _ h, zone_updZone_ne _ _ _ _ h]
      · rw [restartOn_zone_ne _ _ _ _ h, zone_updZone_ne _ _ _ _ h]
  · rfl

/-! ## The zone itself -/

/-- The pool words left to a zone depend on the other zones' records alone (R66). -/
theorem poolAvail_congr (s t : State) (z : ZoneId) (h : ∀ z', z' ≠ z → t.zone z' = s.zone z') : t.poolAvail z = s.poolAvail z := by
  unfold State.poolAvail
  congr 2
  apply List.map_congr_left
  intro y hy
  rw [h y (by simpa using (List.mem_filter.mp hy).2)]

theorem recompute_zone (s : State) (z : ZoneId) (fresh : Bool) (e : SourceId) (r : RateCode) (m : List Role)
    (he : (s.zone z).source = some e) (hr : (s.zone z).rate = some r) (hm : (s.zone z).map = some m) :
    let x := s.zone z
    let g := grantDelay (s.poolAvail z) m.length (requestedDelay x.lipsync (s.source e).offset (Config.rateHz r))
    (s.recompute z fresh).zone z = { x with
      delay := g.1, allocation := m.length * g.1, delayClamped := x.delayClamped || g.2, lipsyncDue := false,
      lines := if fresh || g.1 != x.delay then List.replicate m.length [] else x.lines } := by
  unfold State.recompute
  rw [he, hr, hm]
  exact zone_updZone_self _ _ _

theorem derive_zone (s : State) (z : ZoneId) (m : List Role) (hm : (s.zone z).map = some m) :
    (s.derive z).zone z = { s.zone z with
      matrix := some (deriveMatrix (s.zone z) m (s.foldLevels z).1 (s.foldLevels z).2), stale := false, deriveDue := false } := by
  unfold State.derive
  rw [hm]
  exact zone_updZone_self _ _ _

@[simp] theorem decoders_recompute (s : State) (z : ZoneId) (fresh : Bool) : (s.recompute z fresh).decoders = s.decoders := by
  unfold State.recompute
  split <;> simp

/-- The trim of a zone's source depends on the zone's source and the source table (1.5). -/
theorem sourceTrim_congr (s t : State) (z : ZoneId) (e : SourceId) (hs : t.sources = s.sources) (he : (t.zone z).source = some e) :
    t.sourceTrim z = (s.source e).trim := by
  unfold State.sourceTrim State.source
  rw [he, hs]
  rfl

/-- The start of a block for which nothing waits (R63). -/
theorem beginBlock_zone (s : State) (z : ZoneId) (e : SourceId) (he : (s.zone z).source = some e) (hl : (s.zone z).lipsyncDue = false)
    (hd : (s.zone z).deriveDue = false) :
    (s.beginBlock z).zone z =
      { (s.zone z).capture (s.source e).trim with blockPos := some 0, highDue := false, lowDue := false } := by
  unfold State.beginBlock
  dsimp only
  rw [hl, zone_updZone_self]
  simp only [Bool.false_eq_true, if_false, zone_dueDistances, hd, zone_mapSlots]
  rw [sourceTrim_congr s _ z e _ (by simpa using he)]
  exact sources_of_aside ((aside_mapSlots _ _ _ fun _ _ => slotSettings_atBoundary _ _ _).trans (aside_dueDistances s z))

/-- A fresh entry to RUNNING of a zone with a source, at a span position where a block begins: RUNNING with the rate and map given, delay and
allocation what the pool grants, the matrix derived, the first block begun and nothing awaiting a boundary (R20, R63, R66, R95). -/
theorem enterRunning_zone (s : State) (z : ZoneId) (r : RateCode) (m : List Role) (e : SourceId) (he : (s.zone z).source = some e)
    (hp : s.joinPos z % Config.blockLength = 0 ∧ s.joinPos z < Config.spanLength) :
    let x := s.zone z
    let g := grantDelay (s.poolAvail z) m.length (requestedDelay x.lipsync (s.source e).offset (Config.rateHz r))
    (s.enterRunning z r m true).zone z = { x with
      state := .running, reason := none, rate := some r, map := some m, hold := none, rampOut := false,
      blockPos := some 0, spanPos := s.joinPos z, lipsyncDue := false, deriveDue := false, highDue := false, lowDue := false, stale := false,
      active := { volume := x.volume, dynamicGain := x.dynamicGain, sourceTrim := (s.source e).trim, layout := x.layout,
                  high := x.high, low := x.low },
      matrix := some (deriveMatrix x m (s.foldLevels z).1 (s.foldLevels z).2),
      delay := g.1, allocation := m.length * g.1, delayClamped := x.delayClamped || g.2, lines := List.replicate m.length [] } := by
  dsimp only
  -- the record written first, then the recomputation and the derivation
  let a := (s.updZone z fun x =>
    { x.capture (s.sourceTrim z) with
      state := .running, reason := none, rate := some r, map := some m, hold := none, rampOut := false,
      blockPos := none, spanPos := s.joinPos z, lipsyncDue := false, highDue := false, lowDue := false }).markZone z
  have ha : a.zone z = { (s.zone z).capture (s.sourceTrim z) with
      state := .running, reason := none, rate := some r, map := some m, hold := none, rampOut := false,
      blockPos := none, spanPos := s.joinPos z, lipsyncDue := false, highDue := false, lowDue := false } := by simp [a]
  have hb := recompute_zone a z true e r m (by rw [ha]; exact he) (by rw [ha]) (by rw [ha])
  have hc := derive_zone (a.recompute z true) z m (by rw [hb, ha])
  have src : a.sources = s.sources := sources_of_aside (by simp only [a, aside_markZone]; exact aside_updZone _ _ _ fun _ => rfl)
  have pool : a.poolAvail z = s.poolAvail z := poolAvail_congr s a z fun z' h => by simp only [a, zone_markZone]; exact zone_updZone_ne _ _ _ _ h
  have folds : (a.recompute z true).foldLevels z = s.foldLevels z := by
    unfold State.foldLevels State.decoder
    rw [hb, ha, decoders_recompute]
    simp only [a, decoders_markZone, decoders_updZone]
    rfl
  -- the slots and lanes follow, and the zone's record stays
  have start : ∀ c : State, c.zone z = ((a.recompute z true).derive z).zone z → aside c = aside a →
      (if (c.zone z).spanPos % Config.blockLength = 0 ∧ (c.zone z).spanPos < Config.spanLength then c.beginBlock z else c).zone z =
        { (((a.recompute z true).derive z).zone z).capture (s.source e).trim with
          blockPos := some 0, highDue := false, lowDue := false } := by
    intro c hz hs
    rw [if_pos (by rw [hz, hc, hb, ha]; exact hp), beginBlock_zone c z e (by rw [hz, hc, hb, ha]; exact he)
      (by rw [hz, hc, hb]) (by rw [hz, hc]), hz, State.source, sources_of_aside hs, src]
    rfl
  unfold State.enterRunning
  dsimp only
  rw [if_pos rfl, Bool.true_or, Bool.true_or, if_pos rfl]
  refine (start _ ?_ ?_).trans ?_
  · rw [zone_redecideAll, zone_setLaneRates, zone_mapSlots]
  · rw [aside_redecideAll, aside_setLaneRates, aside_mapSlots _ _ _ fun _ _ => slotSettings_start _ _ _ _ _, aside_derive, aside_recompute]
  · rw [hc, hb, folds, pool, ha]
    simp only [State.source, src]
    rfl

/-- What a user that leaves its program, its decoder kept, and becomes ACQUIRING holds (R23). -/
theorem becomeAcquiring_zone (s : State) (z : ZoneId) :
    (s.becomeAcquiring z false).zone z = { s.zone z with
      state := .acquiring, rampOut := (s.zone z).rampOut || (s.zone z).state == .running, hold := none, allocation := 0, delay := 0, lines := [],
      rate := none, map := none, reason := none, matrix := none, stale := false, deriveDue := false, lipsyncDue := false } := by
  unfold State.becomeAcquiring State.leaveProgram
  dsimp only
  rw [zone_updZone_self, if_neg Bool.false_ne_true, zone_waitList, zone_updZone_self]

/-- A user whose decoder's header has taken another channel count is RUNNING again with the rate and map of that header, its decoder kept, its
delay and allocation what the pool grants anew, its matrix derived for the new map, and its first block begun (R21, R55). -/
theorem restartOn_zone (s : State) (z : ZoneId) (d : DecoderId) (h : Header) (e : SourceId) (he : (s.zone z).source = some e)
    (hd : (s.zone z).decoder = some d) (hp : (s.decoder d).playPos = 0) :
    let x := s.zone z
    let g := grantDelay (s.poolAvail z) h.map.length (requestedDelay x.lipsync (s.source e).offset (Config.rateHz h.rate))
    (s.restartOn z h).zone z = { x with
      state := .running, reason := none, rate := some h.rate, map := some h.map, hold := none, rampOut := false,
      blockPos := some 0, spanPos := 0, lipsyncDue := false, deriveDue := false, highDue := false, lowDue := false, stale := false,
      active := { volume := x.volume, dynamicGain := x.dynamicGain, sourceTrim := (s.source e).trim, layout := x.layout,
                  high := x.high, low := x.low },
      matrix := some (deriveMatrix x h.map (s.foldLevels z).1 (s.foldLevels z).2),
      delay := g.1, allocation := h.map.length * g.1, delayClamped := x.delayClamped || g.2, lines := List.replicate h.map.length [] } := by
  have hz := becomeAcquiring_zone s z
  have src : (s.becomeAcquiring z false).sources = s.sources := sources_of_aside (aside_becomeAcquiring s z false)
  have dec : (s.becomeAcquiring z false).decoders = s.decoders := by
    unfold State.becomeAcquiring State.leaveProgram
    dsimp only
    rw [if_neg Bool.false_ne_true, decoders_updZone, decoders_waitList, decoders_updZone]
  have pool := poolAvail_congr s (s.becomeAcquiring z false) z fun z' hne => becomeAcquiring_zone_ne s z z' hne
  have folds : (s.becomeAcquiring z false).foldLevels z = s.foldLevels z := by
    unfold State.foldLevels State.decoder
    rw [hz, dec]
  have join : (s.becomeAcquiring z false).joinPos z = 0 := by
    unfold State.joinPos State.decoder
    rw [hz, dec]
    dsimp only
    rw [hd]
    exact hp
  have run := enterRunning_zone (s.becomeAcquiring z false) z h.rate h.map e (by rw [hz]; exact he) (by rw [join]; decide)
  dsimp only at run ⊢
  unfold State.restartOn
  rw [run, join, pool, folds, hz]
  simp only [State.source, src]
  rfl

/-! ## A span boundary -/

/-- What a span boundary does to one user touches nothing but what the zones play, and notices (R55). -/
@[simp] theorem aside_userSpan (d : DecoderId) (remapped : Option Header) (folds : Bool) (s : State) (z : ZoneId) :
    aside (State.userSpan d remapped folds s z) = aside s := by
  unfold State.userSpan
  split
  · dsimp only
    split
    · rw [aside_updZone _ _ _ (by intro x; rfl)]
    · split
      · rw [aside_updZone _ _ _ (by intro x; rfl), aside_updZone _ _ _ (by intro x; rfl)]
      · rw [aside_restartOn, aside_updZone _ _ _ (by intro x; rfl)]
  · rfl

/-- A span boundary touches nothing but what the zones play, and notices (R54, R55). -/
@[simp] theorem aside_spanBoundary (s : State) (d : DecoderId) : aside (s.spanBoundary d) = aside s := by
  unfold State.spanBoundary
  dsimp only
  rw [aside_foldl _ (fun s z => aside_userSpan _ _ _ s z), apply_ite aside, aside_markFormat, ite_self, aside_updDecoder]

end Sys2Proof.Safety
end

