-- ==== Sys2Proof/Laws/Slots.lean ====
section
/-! SUPPORT. What the words of a lane and of the delay memory are: how many a lane sends, and that each word of a region or of the pool is one of a
delay line or 0. -/

namespace Sys2Proof.Safety

open Sys2Proof.Machine

/-- An amplifier lane of a PRESENT module sends one word for each of its channels (R106). -/
theorem laneWords_amp {s : State} {id : Identity} {k : EntryId} {e : Entry} (h : s.presentEntry id = some (k, e)) :
    s.laneWords (.amp id) = (List.range' 1 e.faults.length).map fun ch => s.positionWord (.amp id ch) := by
  simp only [State.laneWords, h]

/-- An amplifier lane of a module that is not PRESENT sends nothing (R106). -/
theorem laneWords_absent {s : State} {id : Identity} (h : s.presentEntry id = none) : s.laneWords (.amp id) = [] := by
  simp only [State.laneWords, h]

/-- A line lane sends two words (R106). -/
theorem laneWords_line_length (s : State) (l : Fin 3) : (s.laneWords (.line l)).length = 2 := rfl

/-- A position that is the destination of no slot carries 0 (R106). -/
theorem positionWord_free {s : State} {d : Destination} (h : s.slotAt d = none) : s.positionWord d = 0 := by
  simp only [State.positionWord, h, Option.elim]

/-- The words of a line are as many as its delay (R115). -/
theorem lineWords_length (d : Nat) (line : List Int) : (lineWords d line).length = d := by
  simp [lineWords]

/-- A word of a line is a value that entered, or 0 (R115). -/
theorem lineWords_mem {d : Nat} {line : List Int} {x : Int} (h : x ∈ lineWords d line) : x ∈ line ∨ x = 0 := by
  rcases List.mem_append.mp (List.mem_of_mem_take h) with h | h
  · exact .inl h
  · exact .inr (List.eq_of_mem_replicate h)

/-- The delay memory ends at its 262,144 words (R115). -/
theorem delayWord_beyond (s : State) {a : Nat} (h : Config.delayWords ≤ a) : s.delayWord a = none := by
  simp only [State.delayWord, if_pos h]

/-- The parts of the delay memory add up (R115). -/
theorem delay_memory_adds_up :
    16 * Config.regionWords = Config.poolBase ∧ Config.poolBase + Config.poolWords = Config.delayWords := ⟨rfl, rfl⟩

end Sys2Proof.Safety
end

