-- ==== Sys2Proof/Laws/Tuner.lean ====
section
/-! SUPPORT. What a change of the tuner's state can do: beside notices, it touches the tuner, its port, the station data decoder, what the
zones play, and the context that an announcement takes and gives back. Of the command processor, only the end of a long operation touches the
reply kept for it. -/

namespace Sys2Proof.Safety

open Sys2Proof.Machine

/-- A zone's settings apart from the context an announcement takes and gives back. -/
def standing (x : Zone) : Zone := { zoneSettings x with source := none, volume := 0, mute := false, stack := [], annMissed := false }

/-- `t` is `x` but for the tuner and what follows from it, and notices not yet placed. -/
def Tunerwise (x t : State) : Prop := offTuner t = offTuner x ∧ t.control = x.control

theorem Tunerwise.refl (s : State) : Tunerwise s s := ⟨rfl, rfl⟩

theorem Tunerwise.trans {a b c : State} (h : Tunerwise a b) (g : Tunerwise b c) : Tunerwise a c := ⟨g.1.trans h.1, g.2.trans h.2⟩

/-- What `offAir` keeps, `offTuner` keeps. -/
theorem offTuner_of_offAir {s t : State} (h : offAir t = offAir s) : offTuner t = offTuner s := by
  have e : ∀ x : State, offTuner x = { offAir x with
      tuner := Tuner.reset, stationData := StationData.reset, ports := (offAir x).ports.set 10 Port.reset,
      zones := (offAir x).zones.map standing } := by
    intro x
    show State.mk .. = State.mk ..
    congr 1
    simp only [offAir, Vector.map_map]
    rfl
  rw [e, e, h]

theorem Tunerwise.of_aside {s t : State} (h : aside t = aside s) : Tunerwise s t :=
  ⟨offTuner_of_offAir (offAir_of_aside h), control_of_aside h⟩

/-- The end of an event after a change of the tuner: `Retuned`. -/
theorem retuned_settle {x y : State} (h : Tunerwise x y) : Retuned x y.settle :=
  ⟨(offTuner_of_offAir (offAir_settle y)).trans h.1, NoticesAdded.trans (.of_eq (by rw [h.2])) (settle_noted y).2⟩

/-! ## The records written -/

theorem tunerwise_setTuner (s : State) (x : Tuner) : Tunerwise s (s.setTuner x) := ⟨rfl, rfl⟩
theorem tunerwise_setStationData (s : State) (x : StationData) : Tunerwise s (s.setStationData x) := ⟨rfl, rfl⟩
theorem tunerwise_raise (s : State) (k : NoticeKind) : Tunerwise s (s.raise k) := ⟨rfl, rfl⟩
theorem tunerwise_updTuner (s : State) (f : Tuner → Tuner) : Tunerwise s (s.updTuner f) := by
  unfold State.updTuner
  dsimp only
  split
  · exact (tunerwise_setTuner s _).trans (tunerwise_raise _ _)
  · exact tunerwise_setTuner s _

theorem tunerwise_markZone (s : State) (z : ZoneId) : Tunerwise s (s.markZone z) := ⟨rfl, rfl⟩

/-- A zone written with its standing settings kept. -/
theorem tunerwise_setZone (s : State) (z : ZoneId) (x : Zone) (h : standing x = standing (s.zone z)) : Tunerwise s (s.setZone z x) := by
  refine ⟨?_, rfl⟩
  have e := map_set_of_eq s.zones standing z x h
  exact congrArg (fun v => ({ offTuner s with zones := v } : State)) e

theorem tunerwise_updZone (s : State) (z : ZoneId) (f : Zone → Zone) (h : standing (f (s.zone z)) = standing (s.zone z)) :
    Tunerwise s (s.updZone z f) := by
  unfold State.updZone
  dsimp only
  split
  · exact (tunerwise_setZone s z _ h).trans (tunerwise_markZone _ z)
  · exact tunerwise_setZone s z _ h

theorem tunerwise_foldl {α : Type} (f : State → α → State) (h : ∀ s a, Tunerwise s (f s a)) (l : List α) (s : State) :
    Tunerwise s (l.foldl f s) := by
  induction l generalizing s with
  | nil => exact .refl s
  | cons a l ih => exact (h s a).trans (ih _)

/-- The tuner's port is evaluated again, and its change reported (R6). -/
theorem tunerwise_evaluateTunerPort (s : State) : Tunerwise s s.evaluateTunerPort := by
  have e := aside_updPort s tunerPort fun _ => s.tunerPortRecord
  have p : offTuner (s.setPort tunerPort s.tunerPortRecord) = offTuner s := by
    have v : (s.ports.set 10 s.tunerPortRecord).set 10 Port.reset = s.ports.set 10 Port.reset := by simp
    exact congrArg (fun v => ({ offTuner s with ports := v } : State)) v
  exact ⟨(offTuner_of_offAir (offAir_of_aside e)).trans p, (control_of_aside e).trans rfl⟩

/-! ## Announcements (R37, R38, R180) -/

theorem tunerwise_changeSource (s : State) (z : ZoneId) (src : Option SourceId) : Tunerwise s (s.changeSource z src) := by
  unfold State.changeSource
  split
  · exact .refl s
  · dsimp only
    have leave := Tunerwise.of_aside (aside_leaveProgram s z true)
    split
    · exact leave.trans (tunerwise_updZone _ z _ rfl)
    · exact leave.trans ((tunerwise_updZone _ z _ rfl).trans (.of_aside (aside_acquire _ z)))

theorem tunerwise_pushContext (s : State) (z : ZoneId) (c : StackCause) (src : Option SourceId) (volume : Int) :
    Tunerwise s (s.pushContext z c src volume) :=
  (tunerwise_updZone s z _ rfl).trans (tunerwise_changeSource _ z src)

theorem tunerwise_popContext (s : State) (z : ZoneId) : Tunerwise s (s.popContext z) := by
  unfold State.popContext
  split
  · exact .refl s
  · exact (tunerwise_updZone s z _ rfl).trans ((tunerwise_changeSource _ z _).trans (tunerwise_updZone _ z _ rfl))

theorem tunerwise_announceStart (s : State) (z : ZoneId) : Tunerwise s (s.announceStart z) := by
  unfold State.announceStart
  split
  · split
    · exact tunerwise_updZone s z _ rfl
    · exact tunerwise_pushContext s z _ _ _
  · exact .refl s

theorem tunerwise_announceEnd (s : State) (z : ZoneId) : Tunerwise s (s.announceEnd z) := by
  unfold State.announceEnd
  split
  · exact .refl s
  · split
    · exact tunerwise_popContext s z
    · exact tunerwise_updZone s z _ rfl

theorem tunerwise_startAnnouncement (s : State) : Tunerwise s s.startAnnouncement := by
  unfold State.startAnnouncement
  exact (tunerwise_setStationData s _).trans ((tunerwise_raise _ _).trans (tunerwise_foldl _ tunerwise_announceStart _ _))

theorem tunerwise_endAnnouncement (s : State) (c : EndCause) : Tunerwise s (s.endAnnouncement c) := by
  unfold State.endAnnouncement
  split
  · exact .refl s
  · exact (tunerwise_setStationData s _).trans ((tunerwise_raise _ _).trans (tunerwise_foldl _ tunerwise_announceEnd _ _))

theorem tunerwise_clearStationData (s : State) (c : EndCause) : Tunerwise s (s.clearStationData c) :=
  (tunerwise_endAnnouncement s c).trans (tunerwise_setStationData _ _)

/-! ## States and visits (R152, R158, R160) -/

theorem tunerwise_setTunerState (s : State) (st : TunerState) : Tunerwise s (s.setTunerState st) := by
  unfold State.setTunerState
  split
  · exact .refl s
  · dsimp only
    split
    · exact (tunerwise_updTuner s _).trans (tunerwise_evaluateTunerPort _)
    · exact (tunerwise_updTuner s _).trans ((tunerwise_endAnnouncement _ _).trans (tunerwise_evaluateTunerPort _))

theorem tunerwise_stopTuner (s : State) : Tunerwise s s.stopTuner := tunerwise_updTuner _ _
theorem tunerwise_visit (s : State) (b : Band) (ch : Nat) : Tunerwise s (s.visit b ch) := tunerwise_updTuner _ _

theorem tunerwise_returnTune (s : State) (ch : Nat) (keeps : Bool) : Tunerwise s (s.returnTune ch keeps) := by
  unfold State.returnTune
  dsimp only
  split
  · exact (tunerwise_updTuner s _).trans ((tunerwise_setTunerState _ _).trans (tunerwise_visit _ _ _))
  · exact (tunerwise_clearStationData s _).trans ((tunerwise_updTuner _ _).trans ((tunerwise_setTunerState _ _).trans (tunerwise_visit _ _ _)))

theorem tunerwise_toIdle (s : State) : Tunerwise s s.toIdle := (tunerwise_updTuner s _).trans (tunerwise_setTunerState _ _)

theorem tunerwise_tryAlternate (s : State) (original i : Nat) : Tunerwise s (s.tryAlternate original i) := by
  unfold State.tryAlternate
  split
  · exact (tunerwise_updTuner s _).trans (tunerwise_visit _ _ _)
  · exact tunerwise_returnTune _ _ _

theorem tunerwise_monitor (s : State) (q : Reading) : Tunerwise s (s.monitor q) := by
  unfold State.monitor
  dsimp only
  split
  · exact (tunerwise_updTuner s _).trans ((tunerwise_setTunerState _ _).trans (tunerwise_tryAlternate _ _ _))
  · exact tunerwise_updTuner s _

end Sys2Proof.Safety
end

