-- ==== Sys2Proof/Laws/ZoneSlots.lean ====
section
/-! SUPPORT. What the operations on a zone's slots can do: State.mapSlots, State.dueDistances and State.redecideAll change the slots of the zone,
each from its own record, and, beside notices, nothing else. -/

namespace Sys2Proof.Safety

open Sys2Proof.Machine

/-- A slot written with its own record changes nothing. -/
theorem setSlot_same (s : State) (i : SlotId) : s.setSlot i (s.slot i) = s := by
  have h : s.slots.set i (s.slots[i]) = s.slots := by
    apply Vector.ext; intro j hj
    by_cases e : i.val = j
    · subst e; simp
    · rw [Vector.getElem_set_ne _ _ e]
  show ({ s with slots := s.slots.set i (s.slots[i]) } : State) = s
  rw [h]

/-- Slots written one after another, each from its own record. -/
theorem foldl_setSlot (g : Slot → Slot) (l : List SlotId) (n : l.Nodup) (s : State) :
    l.foldl (fun s i => s.setSlot i (g (s.slot i))) s =
      { s with slots := Vector.ofFn fun i => if i ∈ l then g (s.slot i) else s.slot i } := by
  induction l generalizing s with
  | nil =>
    have : (Vector.ofFn fun i => s.slot i) = s.slots := by
      apply Vector.ext; intro j hj; simp [State.slot]
    simp [this]
  | cons i l ih =>
    obtain ⟨hi, n⟩ := List.nodup_cons.mp n
    rw [List.foldl_cons, ih n]
    show State.mk .. = State.mk ..
    congr 1
    apply Vector.ext
    intro j hj
    simp only [Vector.getElem_ofFn, State.slot_setSlot, List.mem_cons]
    by_cases e : (⟨j, hj⟩ : SlotId) = i
    · subst e; simp [hi]
    · simp [e]

/-- The slots of a zone are those assigned to it. -/
theorem mem_slotsOf (s : State) (z : ZoneId) (i : SlotId) :
    i ∈ s.slotsOf z ↔ (s.slot i).assigned.any (fun a => a.zone == z) = true := by
  have : i ∈ allSlots := by revert i; decide
  simp [State.slotsOf, this]

theorem slotsOf_nodup (s : State) (z : ZoneId) : (s.slotsOf z).Nodup := List.Pairwise.filter _ (by decide : allSlots.Nodup)

/-- What `mapSlots` does: each slot of the zone is changed by its role, and nothing else changes. -/
theorem mapSlots_eq (s : State) (z : ZoneId) (f : Role → Slot → Slot) :
    s.mapSlots z f = { s with slots := s.slots.map fun y => y.assigned.elim y fun a => if a.zone = z then f a.role y else y } := by
  refine (congrArg (fun F => (s.slotsOf z).foldl F s) (funext fun s => funext fun i => ?_)).trans
    ((foldl_setSlot (fun y => y.assigned.elim y fun a => f a.role y) _ (slotsOf_nodup s z) s).trans ?_)
  · split
    · rename_i a h; simp only [h, Option.elim]
    · rename_i h; simp only [h, Option.elim]; exact (setSlot_same s i).symm
  show State.mk .. = State.mk ..
  congr 1
  apply Vector.ext
  intro j hj
  simp only [Vector.getElem_ofFn, Vector.getElem_map, mem_slotsOf]
  show (if (s.slots[j]).assigned.any _ = true then (s.slots[j]).assigned.elim (s.slots[j]) _ else s.slots[j]) = _
  cases s.slots[j].assigned with
  | none => rfl
  | some a => simp only [Option.any, Option.elim, beq_iff_eq]; rfl

/-- The speaker delays that await a computation (R111). -/
theorem dueDistances_eq (s : State) (z : ZoneId) (r : RateCode) (h : (s.zone z).rate = some r) :
    s.dueDistances z = { s with slots := s.slots.map fun y => y.assigned.elim y fun a =>
      if a.zone = z then (if y.distanceDue then y.computeDelay r else y) else y } := by
  unfold State.dueDistances
  rw [h]
  exact mapSlots_eq s z _

/-- Notices aside, an update of a slot is a write of its record. -/
@[simp] theorem hushed_updSlot (s : State) (i : SlotId) (f : Slot → Slot) :
    hushed (s.updSlot i f) = hushed (s.setSlot i (f (s.slot i))) := by
  unfold State.updSlot
  dsimp only
  split <;> rfl

/-- Notices aside, an update of a zone is a write of its record. -/
@[simp] theorem hushed_updZone (s : State) (z : ZoneId) (f : Zone → Zone) :
    hushed (s.updZone z f) = hushed (s.setZone z (f (s.zone z))) := by
  unfold State.updZone
  dsimp only
  split <;> rfl

@[simp] theorem slot_updSlot (s : State) (i j : SlotId) (f : Slot → Slot) :
    (s.updSlot i f).slot j = if j = i then f (s.slot i) else s.slot j := by
  unfold State.updSlot
  dsimp only
  split
  · exact State.slot_setSlot s i j _
  · exact State.slot_setSlot s i j _

/-- A slot decided again under the checks of R103. -/
def redecided (s : State) (y : Slot) : Slot :=
  y.assigned.elim y fun a => let st := s.slotStateFor a y.reduction; if st = y.state then y else y.enter st

/-- The five checks of R103 read the module table, the protection records and the zones, and nothing else. -/
theorem slotStateFor_congr {s t : State} (hl : t.link.table = s.link.table) (hp : t.prot = s.prot) (hz : t.zones = s.zones) (a : Assignment) (n : Nat) :
    t.slotStateFor a n = s.slotStateFor a n := by
  have he : t.entry = s.entry := by funext k; simp [State.entry, hl]
  have hm : t.protModule = s.protModule := by funext k; simp [State.protModule, hp]
  have hzz : t.zone a.zone = s.zone a.zone := by simp [State.zone, hz]
  have h1 : t.missing a.dest = s.missing a.dest := by
    simp only [State.missing, State.entryOf, he]
  have h2 : t.protOf a.dest = s.protOf a.dest := by
    simp only [State.protOf, State.protRecord, State.entryOf, he, hm]
  unfold State.slotStateFor
  rw [h1, h2, hzz]

theorem redecide_kept (s : State) (i : SlotId) : (s.redecide i).link.table = s.link.table ∧ (s.redecide i).prot = s.prot ∧ (s.redecide i).zones = s.zones := by
  unfold State.redecide
  split
  · exact ⟨rfl, rfl, rfl⟩
  · dsimp only
    split
    · exact ⟨rfl, rfl, rfl⟩
    · unfold State.updSlot; dsimp only; split <;> exact ⟨rfl, rfl, rfl⟩

/-- A slot decided again: notices aside, its record alone is written. -/
theorem hushed_redecide (s : State) (i : SlotId) : hushed (s.redecide i) = hushed (s.setSlot i (redecided s (s.slot i))) := by
  unfold State.redecide redecided
  cases h : (s.slot i).assigned with
  | none => simp [setSlot_same]
  | some a =>
    dsimp only [Option.elim]
    split
    · rw [setSlot_same]
    · exact hushed_updSlot _ _ _

theorem redecided_congr {s t : State} (hl : t.link.table = s.link.table) (hp : t.prot = s.prot) (hz : t.zones = s.zones) : redecided t = redecided s := by
  funext y; unfold redecided
  cases y.assigned with
  | none => rfl
  | some a => simp only [Option.elim, slotStateFor_congr hl hp hz]

theorem hushed_setSlot_congr {s t : State} (h : hushed t = hushed s) (i : SlotId) (x : Slot) : hushed (t.setSlot i x) = hushed (s.setSlot i x) := by
  have e : ∀ u : State, hushed (u.setSlot i x) = (hushed u).setSlot i x := fun _ => rfl
  rw [e, e, h]

theorem hushed_redecideAll (s : State) (l : List SlotId) (t : State) (ht : t.link.table = s.link.table ∧ t.prot = s.prot ∧ t.zones = s.zones)
    (u : State) (hu : hushed t = hushed u) :
    hushed (t.redecideAll l) = hushed (l.foldl (fun u i => u.setSlot i (redecided s (u.slot i))) u) := by
  induction l generalizing t u with
  | nil => exact hu
  | cons i l ih =>
    refine ih (t.redecide i) ?_ (u.setSlot i (redecided s (u.slot i))) ?_
    · obtain ⟨a, b, c⟩ := redecide_kept t i
      exact ⟨a.trans ht.1, b.trans ht.2.1, c.trans ht.2.2⟩
    · rw [hushed_redecide, redecided_congr ht.1 ht.2.1 ht.2.2]
      have : t.slot i = u.slot i := by simp only [State.slot, hushed_slots hu]
      rw [this]
      exact hushed_setSlot_congr hu i _

/-- The slots of a zone decided again: notices aside, each record becomes what the checks of R103 say, and nothing else changes. -/
theorem hushed_redecideAll_slotsOf (s : State) (z : ZoneId) :
    hushed (s.redecideAll (s.slotsOf z)) = hushed { s with slots := s.slots.map fun y => y.assigned.elim y fun a =>
      (if a.zone = z then redecided s y else y) } := by
  rw [hushed_redecideAll s _ s ⟨rfl, rfl, rfl⟩ s rfl, foldl_setSlot _ _ (slotsOf_nodup s z)]
  congr 1
  show State.mk .. = State.mk ..
  congr 1
  apply Vector.ext
  intro j hj
  simp only [Vector.getElem_ofFn, Vector.getElem_map, mem_slotsOf]
  show (if (s.slots[j]).assigned.any _ = true then (redecided s (s.slots[j])) else s.slots[j]) = _
  cases s.slots[j].assigned with
  | none => rfl
  | some a => simp only [Option.any, Option.elim, beq_iff_eq]

theorem hushed_slots_congr {s t : State} {v w : Vector Slot 16} (h : hushed t = hushed s) (e : v = w) :
    hushed { t with slots := v } = hushed { s with slots := w } := by
  subst e
  exact congrArg (fun u : State => { u with slots := v }) h

/-- The end of an event that has, notices aside, led to `x`. -/
theorem noted_settle {x y : State} (h : hushed y = hushed x) (o : y.control.outgoing = x.control.outgoing) : Noted x y.settle :=
  ⟨(hushed_settle y).trans h, NoticesAdded.trans (.of_eq o) (settle_noted y).2⟩

/-- `t` is `s` with zone `z`'s record and the slots written, notices aside. -/
def ZoneWritten (s : State) (z : ZoneId) (t : State) (x : Zone) (v : Vector Slot 16) : Prop :=
  hushed t = hushed { s with zones := s.zones.set z x, slots := v }

theorem ZoneWritten.zone {s t : State} {z : ZoneId} {x : Zone} {v : Vector Slot 16} (h : ZoneWritten s z t x v) : t.zone z = x := by
  have := hushed_zones h
  simp [State.zone, this]

theorem ZoneWritten.zone_ne {s t : State} {z o : ZoneId} {x : Zone} {v : Vector Slot 16} (h : ZoneWritten s z t x v) (n : o ≠ z) : t.zone o = s.zone o := by
  have := hushed_zones h
  simp [State.zone, this, Vector.getElem_set_ne, Fin.val_ne_of_ne n.symm]

theorem ZoneWritten.start (s : State) (z : ZoneId) : ZoneWritten s z s (s.zone z) s.slots := by
  have h : s.zones.set z (s.zone z) = s.zones := by
    apply Vector.ext; intro j hj
    by_cases e : z.val = j
    · subst e; simp [State.zone]
    · rw [Vector.getElem_set_ne _ _ e]
  show _ = hushed ({ s with zones := s.zones.set z (s.zone z), slots := s.slots } : State)
  rw [h]

/-- The zone's record updated, after what has been written. -/
theorem ZoneWritten.updZone {s t : State} {z : ZoneId} {x : Zone} {v : Vector Slot 16} (h : ZoneWritten s z t x v) (f : Zone → Zone) :
    ZoneWritten s z (t.updZone z f) (f x) v := by
  unfold ZoneWritten at *
  rw [hushed_updZone]
  have z' : t.zone z = x := ZoneWritten.zone h
  rw [z']
  have e : ∀ u : State, hushed (u.setZone z (f x)) = (hushed u).setZone z (f x) := fun _ => rfl
  rw [e, h]
  show hushed (State.setZone _ z (f x)) = _
  simp [State.setZone]

/-- The zone's slots changed each by its role, after what has been written. -/
theorem ZoneWritten.mapSlots {s t : State} {z : ZoneId} {x : Zone} {v : Vector Slot 16} (h : ZoneWritten s z t x v) (f : Role → Slot → Slot) :
    ZoneWritten s z (t.mapSlots z f) x (v.map fun y => y.assigned.elim y fun a => if a.zone = z then f a.role y else y) := by
  unfold ZoneWritten at *
  rw [mapSlots_eq]
  have : t.slots = v := hushed_slots h
  rw [this]
  exact (hushed_slots_congr h rfl)

end Sys2Proof.Safety
end

