-- ==== Sys2Proof/Tests/Slice0.lean ====
section
/-! SUPPORT. Tests: what WellFormed refuses, single steps whose outcome the spec gives, and for every statement with hypotheses a state
and operands that meet them, clause by clause. -/

namespace Sys2Proof.Tests

open Sys2Proof.Machine Sys2Proof.Safety

/-! ## Small states -/

/-- The part after initialisation, START read. -/
def ready : State := { State.reset with control := { Control.reset with notReady := false } }

/-- A command frame. -/
def cmd (kind : Byte) (payload : List Byte) (flags : Byte := 0) : Command := { kind := kind, tag := 7, flags := flags, payload := payload }

/-- `s` with command `c` alone in the command queue. -/
def host (s : State) (c : Command) : State := { s with control := { s.control with commands := [c] } }

def locked48 : Port := { Port.reset with state := .locked, rate := some 2, content := .pcm, count := 4096 }
def packed48 : Port := { Port.reset with state := .locked, rate := some 2, content := .packed, phase := .due }
def src (p : PortId) : Source := { Source.reset with enabled := true, port := p }
def stereoMatrix : Matrix := { rows := [{ role := 0, coefs := [16384, 0] }, { role := 1, coefs := [0, 16384] }], custom := false }

/-- A zone RUNNING on source `e` with two channels at 48 kHz, at a block boundary. -/
def runs (z : ZoneId) (e : SourceId) (d : Option DecoderId) : Zone :=
  { Zone.reset z with state := .running, source := some e, rate := some 2, map := some [0, 1], decoder := d, matrix := some stereoMatrix,
                      lines := [[], []], blockPos := some 32 }

def frame0 : Frame :=
  { header := { rate := 2, map := [0, 1] }, sequence := 3, level := -4, centreFold := -6, surroundFold := -6,
    points := [{ position := 10, gain := -3 }], entryGain := 0, exitGain := -3, samples := [List.replicate 256 5, List.replicate 256 6] }

def locked0 : Decoder :=
  { Decoder.reset with state := .locked, port := some 3, mode := .scan, playing := some frame0, clock := true,
                       header := some frame0.header, metadata := some (frame0.metadata 0), chain := some frame0.carry }

def entry0 : Entry :=
  { identity := 5, address := 1, presence := .present, misses := 0, supplyLow := false, temperature := none,
    faults := List.replicate 2 .clear, polled := 0 }

def slotOn (z : ZoneId) (r : Role) (d : Destination) : Slot :=
  { Slot.reset with assigned := some { zone := z, role := r, dest := d }, state := .active, g := 32, target := 32 }

/-- Zone 0 plays PCM of port 1, zone 1 the packed stream of port 3; slots on line outputs and on a module of two channels; the tuner is
IDLE on FM. -/
def busy : State :=
  { ready with
    now := 10000
    ports := ((ready.ports.set 1 locked48).set 3 packed48).set 10 locked48
    sources := ((ready.sources.set 0 (src 1)).set 1 (src 10)).set 2 (src 3)
    zones := (ready.zones.set 0 (runs 0 0 none)).set 1 (runs 1 2 (some 0))
    decoders := ready.decoders.set 0 locked0
    slots := (((ready.slots.set 0 (slotOn 0 0 (.line 0))).set 1 (slotOn 0 1 (.amp 5 1))).set 2 (slotOn 1 0 (.line 2)))
    link := { Link.reset with exchange := .idle, table := Link.reset.table.set 0 (some entry0) }
    prot := ready.prot.set 0 (some { supplyLow := false, temperature := none, muteMask := 0, records := List.replicate 2 .fresh })
    tuner := { Tuner.reset with state := .idle, channel := 100 } }

/-- `busy` with zone `z` changed. -/
def zoned (z : ZoneId) (f : Zone → Zone) : State := { busy with zones := busy.zones.set z (f (busy.zone z)) }

/-- `busy` with the link changed. -/
def linked (f : Link → Link) : State := { busy with link := f busy.link }

/-- `busy` with the tuner changed. -/
def tuned (f : Tuner → Tuner) : State := { busy with tuner := f busy.tuner }

/-- `s` with a command of kind `k` and payload `p`, CONTINUE clear, alone in the command queue. -/
def sent (s : State) (k : Byte) (p : List Byte) : State := host s (cmd k p)

/-- Between events, a command of kind `k` with payload `p` and flags 0 stands at the head and passes the form check. -/
abbrev Sends (s : State) (k : Byte) (p : List Byte) : Prop :=
  Calm s ∧ Heads s (cmd k p) ∧ (cmd k p).kind = k ∧ (cmd k p).payload = p ∧ (cmd k p).flags = 0

/-- A command sent between events heads the queue when its form is right. -/
theorem sends (s : State) (k : Byte) (p : List Byte) (h : Calm s) (f : (cmd k p).formRight = true) : Sends (sent s k p) k p :=
  ⟨h, ⟨rfl, f⟩, rfl, rfl, rfl⟩

/-- A field of the state after a command that answers a next state. -/
def after {α : Type} (i : Instr) (s : State) (f : State → α) : Option α :=
  match exec i s with
  | .next t => some (f t)
  | _ => none

/-- The payload of the last message in the outgoing queue: of a reply, its result code, the kind of the command, the data. -/
def lastReply (s : State) : List Byte := (s.control.outgoing.getLast?).elim [] (·.payload)

/-! ## What WellFormed refuses -/

theorem test_wf_clockSeen_converterPort : (Instr.clockSeen 6).wellFormed = false := rfl
theorem test_wf_stabilityTimer_tunerPort : (Instr.stabilityTimerExpiry 10).wellFormed = false := rfl
theorem test_wf_clockLost_converterPort : (Instr.clockLost 9).wellFormed = false := rfl
theorem test_wf_recognition_converterPort : (Instr.rateRecognitionChange 6 48000000).wellFormed = false := rfl
theorem test_wf_rateChange_tunerPort : (Instr.rateChange 10 48000000).wellFormed = false := rfl
theorem test_wf_wordTaken_converterPort : (Instr.wordTaken 7 ⟨24, 0⟩).wellFormed = false := rfl
theorem test_wf_wordCountLimit_tunerPort : (Instr.wordCountLimit 10 ⟨24, 0⟩).wellFormed = false := rfl
theorem test_wf_wordTaken_bitsBeyondLength : (Instr.wordTaken 1 ⟨16, 65536⟩).wellFormed = false := rfl
theorem test_wf_wordTaken_shortBiphaseWord : (Instr.wordTaken 3 ⟨16, 0⟩).wellFormed = false := rfl
theorem test_wf_channelStatus_serialPort : (Instr.channelStatusBlock 2 true).wellFormed = false := rfl
theorem test_wf_otherTransfer_readByte : (Instr.otherTransfer 2 5).wellFormed = false := rfl
theorem test_wf_samplePeriod_nineWords : (Instr.zoneSamplePeriod 0 (List.replicate 9 ⟨24, 0⟩)).wellFormed = false := rfl
theorem test_wf_reply_elevenBytes : (Instr.transactionComplete (.acknowledged (List.replicate 11 0))).wellFormed = false := rfl
theorem test_wf_window_addressZero : (Instr.requestWindow [3, 0]).wellFormed = false := rfl
theorem test_wf_faultRequest_joinKind : (Instr.faultRequest 2 1 1 0).wellFormed = false := rfl
theorem test_wf_quality_multipath :
    (Instr.tunerTransactionComplete (.acknowledged ⟨120, 101, true, 0⟩)).wellFormed = false := rfl
theorem test_wf_monitor_strength : (Instr.monitorRead (some ⟨121, 0, true, 0⟩)).wellFormed = false := rfl
theorem test_wf_identGroup_sixBytes : (Instr.alternateIdentGroup (List.replicate 6 0)).wellFormed = false := rfl
theorem test_wf_dataGroup_eightBytes : (Instr.stationDataGroup (List.replicate 8 0)).wellFormed = false := rfl
theorem test_wf_accepts : (Instr.clockSeen 5).wellFormed = true ∧ (Instr.wordTaken 1 ⟨16, 65535⟩).wellFormed = true ∧ (Instr.channelStatusBlock 3 true).wellFormed = true ∧
    (Instr.requestWindow [1, 7]).wellFormed = true ∧ (Instr.monitorRead (some ⟨120, 100, true, 0⟩)).wellFormed = true := ⟨rfl, rfl, rfl, rfl, rfl⟩

/-! ## Witnesses: control port -/

/-- A reply and two latched kinds waiting, and COMMAND_DROPPED set. -/
def noisy : State :=
  { busy with control := { busy.control with
      dropped := true, outgoing := [{ kind := 0x80, tag := 1, payload := [1, 2] }], latched := (busy.control.latched.set 3 true).set 5 true } }

/-- SYS.RESET at the head, two long operations in flight, an enumeration of origin HOST running. -/
def resetting : State :=
  { noisy with
    control := { noisy.control with
      commands := [cmd 1 [], cmd 2 [0, 0]],
      longOps := [{ kind := .tuner, command := 0x63, tag := 4 }, { kind := .enumeration, command := 0x51, tag := 9 }] }
    link := { busy.link with enumRun := some { origin := .host, rounds := 1, assigned := 1, failed := 0 } } }

/-- The command queue is full. -/
def full8 : State := { noisy with control := { noisy.control with commands := List.replicate 8 (cmd 1 []) } }

/-- Messages and reservations number 32. -/
def full32 : State :=
  { noisy with control := { noisy.control with
      outgoing := List.replicate 31 { kind := 0x80, tag := 0, payload := [] }, longOps := [{ kind := .tuner, command := 0x63, tag := 4 }] } }

theorem witness_StepTakesFrontCommand :
    ({ busy with pending := [.sysReset, .noteMask] } : State).pending = .sysReset :: [.noteMask] ∧ busy.pending = [] := ⟨rfl, rfl⟩

theorem witness_InitialisationEndPlacesStart : State.reset.control.notReady = true ∧ busy.control.notReady = false := ⟨rfl, rfl⟩

theorem witness_SoftResetEffect :
    Heads resetting (cmd 1 []) ∧ (cmd 1 []).kind = 0x01 ∧
    ∃ r, resetting.link.enumRun = some r ∧ r.origin = .host ∧ resetting.control.longOps.length = 2 := ⟨⟨rfl, rfl⟩, rfl, _, rfl, rfl, rfl⟩

theorem witness_StatusByteAndStatusTransfer : full8.control.commands.length ≤ 8 ∧ 3 ≤ (3 : Byte).toNat := by decide

/-- A frame of 3 bytes and one of 250 are taken; one is cut short, one too short, one too long. -/
theorem witness_WriteTransferTakesOrDiscards :
    (3 ≤ (3 : Byte).toNat ∧ (3 : Byte).toNat ≤ 250 ∧ ([] : List Byte).length + 3 = (3 : Byte).toNat) ∧
    (3 ≤ (250 : Byte).toNat ∧ (250 : Byte).toNat ≤ 250 ∧ (List.replicate 247 (0 : Byte)).length + 3 = (250 : Byte).toNat) ∧
    (∃ len rest, [(2 : Byte), 1, 1] = len :: rest ∧ len.toNat < 3) ∧ (∃ len rest, [(251 : Byte), 1] = len :: rest ∧ 250 < len.toNat) ∧
    (∃ len rest, [(5 : Byte), 1, 1] = len :: rest ∧ rest.length < len.toNat) ∧
    full8.control.commands.length = 8 ∧ full32.control.outgoing.length + full32.control.commands.length + full32.control.longOps.length = 32 ∧
    (∃ t, exec .hardReset busy = .next t) ∧ (∃ t, Heads resetting (cmd 1 []) ∧ exec .sysReset resetting = .next t) :=
  ⟨by decide, ⟨by decide, by decide, by rw [List.length_replicate]; decide⟩, ⟨_, _, rfl, by decide⟩, ⟨_, _, rfl, by decide⟩, ⟨_, _, rfl, by decide⟩, rfl, rfl, ⟨_, rfl⟩, ⟨_, ⟨rfl, rfl⟩, rfl⟩⟩

theorem witness_ReadsThatCompleteNothing :
    busy.control.outgoing = [] ∧
    noisy.control.outgoing = { kind := 0x80, tag := 1, payload := [1, 2] } :: [] ∧
    5 < (({ kind := 0x80, tag := 1, payload := [1, 2] } : Message).segment noisy.control.segmentsDone).length := ⟨rfl, rfl, by decide⟩

/-- `noisy` with a message of 248 payload bytes alone in the queue. -/
def long : State :=
  { noisy with control := { noisy.control with outgoing := [{ kind := 0x80, tag := 1, payload := List.replicate 248 7 }] } }

/-- A latched kind is placed; without one, nothing; the last of two segments; the first of two; a kind raised anew. -/
theorem witness_ReadCompletesMessage :
    (∃ m, noisy.control.outgoing = m :: [] ∧ m.payload.length ≤ 247 * (noisy.control.segmentsDone + 1) ∧
      noisy.control.latched[NoticeKind.decoder.number] = true ∧ ∀ j : NoticeKind, j.number < NoticeKind.decoder.number →
        noisy.control.latched[j.number] = false) ∧
    (∀ k : NoticeKind, busy.control.latched[k.number] = false) ∧
    (List.replicate 494 (0 : Byte)).length ≤ 247 * (1 + 1) ∧
    (∃ m, long.control.outgoing = m :: [] ∧ 247 * (long.control.segmentsDone + 1) < m.payload.length) ∧
    (let s : State := { noisy with raised := noisy.raised.set 1 true }
     s.raised[NoticeKind.zone.number] = true ∧ s.control.enabled[NoticeKind.zone.number] = true ∧
      (∀ x ∈ s.control.outgoing, x.kind ≠ NoticeKind.zone.byte) ∧
      s.control.outgoing.length + s.control.commands.length + s.control.longOps.length < 32) :=
  ⟨⟨_, rfl, by decide, rfl, fun j h => by cases j <;> revert h <;> decide⟩, fun k => by cases k <;> rfl, Nat.le_of_eq List.length_replicate,
    ⟨_, rfl, by rw [List.length_replicate]; decide⟩, rfl, rfl, by decide, by decide⟩

/-- On the row of each kind, a command with bit 7 of its flags set; a kind that is no command kind. -/
theorem witness_BadFormChangesNothing :
    (∀ row ∈ hostRows, (host busy (cmd row.2.1 [] 0x80)).control.commands.head? = some (cmd row.2.1 [] 0x80) ∧
      (cmd row.2.1 [] 0x80).formRight = false) ∧
    ((host busy (cmd 0x75 [])).control.commands.head? = some (cmd 0x75 []) ∧ ∀ row ∈ hostRows, (cmd 0x75 []).kind ≠ row.2.1) := by decide

/-- The link at rest, between events; a right form by its fields and one of MATRIX.LOAD; bits 1 and 7 of the flags. -/
theorem witness_BadFormChangesNothing_rested :
    (∀ row ∈ hostRows, Calm (host busy (cmd row.2.1 [] 0x80)) ∧ LinkRested (host busy (cmd row.2.1 [] 0x80)).link) ∧
    ((cmd 0x58 [0, 0, 0, 0, 0, 5, 8]).formRight = true ∧ (0x58, [6, 1]) ∈ fieldWidths ∧ [0, 0, 0, 0, 0, 5, 8].length = [6, 1].sum) ∧
    ((cmd 0x3A [0, 1, 2, 0, 1, 1, 2, 64, 0, 64, 0]).formRight = true ∧
      [0, 1, 2, 0, 1, 1, 2, 64, 0, 64, 0] = (0 : Byte) :: 1 :: 2 :: ([0, 1] ++ 1 :: [2, 64, 0, 64, 0]) ∧ [2, 64, 0, 64, 0].length = 1 * (1 + 2 * 2)) ∧
    ((cmd 0x3A [0, 1, 2, 0, 1, 1, 2, 64, 0, 64]).formRight = false ∧ (cmd 0x51 [] 2).formRight = false ∧ (cmd 0x51 [] 0x80).formRight = false) := by
  refine ⟨fun row _ => ⟨rfl, rfl, rfl, rfl, rfl⟩, by decide, by decide, by decide⟩

/-- Kinds 1 and 2 raised with 31 messages queued: room for the first of them alone. -/
def crowded : State :=
  { noisy with
    control := { noisy.control with outgoing := List.replicate 31 { kind := 0x80, tag := 0, payload := [] } }
    raised := (noisy.raised.set 1 true).set 2 true }

/-- A kind that is raised and placed, one whose notice is in the queue, one for which there is no room, one that is not raised; during
initialisation; room left after the lower kinds, and none. -/
theorem witness_EventEndPlacesOrLatchesNotices :
    (let s : State := { noisy with raised := noisy.raised.set 1 true }
     s.raised[NoticeKind.zone.number] = true ∧ s.control.enabled[NoticeKind.zone.number] = true ∧
      (∀ x ∈ s.control.outgoing, x.kind ≠ NoticeKind.zone.byte) ∧ s.raised[NoticeKind.slot.number] = false) ∧
    (∃ x ∈ [({ kind := 0xC1, tag := 0, payload := [] } : Message)], x.kind = NoticeKind.source.byte ∨ x.kind = NoticeKind.zone.byte) ∧
    32 ≤ full32.control.outgoing.length + full32.control.commands.length + full32.control.longOps.length ∧
    State.reset.control.notReady = true ∧
    (let due := fun (k : NoticeKind) => crowded.raised[k.number] = true ∧ crowded.control.enabled[k.number] = true
     crowded.control.notReady = false ∧ due .zone ∧ due .source ∧ NoticeKind.zone.number < NoticeKind.source.number ∧
      crowded.control.outgoing.length + crowded.control.commands.length + crowded.control.longOps.length = 31) := by decide

/-- Records written with a change of each item that counts and without one; a span boundary that changes the map; a slot whose sample
clips; a channel that becomes SHUT; a channel count that changes; an enumeration in flight; a piece of a name; an active announcement. -/
theorem witness_EventEnd_changes :
    ((busy.zone 0).state ≠ ({ busy.zone 0 with state := .held } : Zone).state ∧
      (busy.zone 0).delayClamped = false ∧ ({ busy.zone 0 with delayClamped := true } : Zone).delayClamped = true ∧
      (busy.zone 0).stack ≠ ({ busy.zone 0 with stack := [{ source := none, volume := 0, mute := false, cause := .host }] } : Zone).stack) ∧
    ((busy.decoder 0).port ≠ Decoder.reset.port ∧ (busy.slot 0).assigned ≠ Slot.reset.assigned ∧ (busy.port 1).rate ≠ Port.reset.rate ∧
      busy.tuner.follow ≠ ({ busy.tuner with follow := true } : Tuner).follow) ∧
    ((busy.decoder 0).state = .locked ∧
      (let x : Decoder := { locked0 with ready := some { frame0 with header := { frame0.header with map := [1, 0] } } }
       x.header.map (·.map) ≠ x.nextSpan.header.map (·.map)) ∧
      locked0.header.map (·.map) = locked0.nextSpan.header.map (·.map)) ∧
    ((busy.slot 0).assigned = some { zone := 0, role := 0, dest := .line 0 } ∧ (busy.slot 0).overflow = false ∧
      ((busy.slot 0).sample (busy.zone 0).active (2 ^ 60) 0).overflow = true ∧
      (let y := (busy.slot 0).sample (busy.zone 0).active 0 0; y.overflow = false ∧ y.limited = false)) ∧
    (let old : ProtModule := { supplyLow := false, temperature := none, muteMask := 0, records := [.fresh] }
     let new : ProtModule := { old with records := [{ ProtRecord.fresh with state := .shut }] }
     old.records[0]? = some .fresh ∧ new.records[0]? = some { ProtRecord.fresh with state := .shut } ∧
      ProtRecord.fresh.state ≠ .shut) ∧
    (({ identity := 5, address := 1, entry := 0 } : Winner).entry = 0 ∧ 3 ≠ entry0.faults.length ∧ 2 = entry0.faults.length) ∧
    ((linked fun l => { l with enumRun := some { origin := .host, rounds := 1, assigned := 1, failed := 0 } }).link.enumRun ≠ none ∧
      busy.stationData.name[(0 : Fin 4)] ≠ some (65, 66) ∧ ({ StationData.reset with active := some 9000 } : StationData).active ≠ none ∧
      busy.stationData.active = none) := by decide

theorem witness_NoteMaskWritesMask : Sends (sent noisy 0x02 [0x0F, 0xEF]) 0x02 [0x0F, 0xEF] := sends _ _ _ rfl rfl

theorem witness_QueriesReport :
    Sends (sent busy 0x12 [15]) 0x12 [byteOf (15 : SourceId)] ∧ Sends (sent busy 0x2B [2]) 0x2B [byteOf (2 : ZoneId)] ∧
    Sends (sent busy 0x30 [1]) 0x30 [byteOf (1 : DecoderId)] ∧ Sends (sent busy 0x45 [15, 0]) 0x45 [byteOf (15 : SlotId), 0] ∧
    Sends (sent busy 0x53 []) 0x53 [] ∧
    (Sends (sent busy 0x59 [0, 0, 0, 0, 0, 5]) 0x59 [0, 0, 0, 0, 0, 5] ∧
      (sent busy 0x59 [0, 0, 0, 0, 0, 5]).entryOf (idField [0, 0, 0, 0, 0, 5] 0) = some 0 ∧
      ((sent busy 0x59 [0, 0, 0, 0, 0, 5]).protModule 0).isSome = true) ∧
    Sends (sent busy 0x67 []) 0x67 [] ∧ Sends (sent busy 0x74 [15]) 0x74 [byteOf (15 : Fin 16)] ∧
    Sends (sent busy 0x45 [1, 1]) 0x45 [byteOf (1 : SlotId), 1] ∧
    ((busy.zone 0).matrixMode = .default ∧ (busy.zone 0).customInactive = false ∧
      (let x := { busy.zone 0 with matrixMode := .custom }; x.matrix.map (·.custom) = some false ∧ x.customInactive = true)) :=
  ⟨sends _ _ _ rfl rfl, sends _ _ _ rfl rfl, sends _ _ _ rfl rfl, sends _ _ _ rfl rfl, sends _ _ _ rfl rfl,
    ⟨sends _ _ _ rfl rfl, by decide, rfl⟩, sends _ _ _ rfl rfl, sends _ _ _ rfl rfl, sends _ _ _ rfl rfl, by decide⟩

/-- A zone of 3 and of 255, on a row of each table, with no group open. -/
theorem witness_ZoneAboveTwoRefused :
    (Sends (sent busy 0x20 [3, 0]) 0x20 [3, 0] ∧ 2 < (3 : Byte).toNat ∧ (Instr.zonePower, (0x20 : Byte)) ∈ zoneRows) ∧
    (Sends (sent busy 0x22 [255, 0, 0]) 0x22 [255, 0, 0] ∧ 2 < (255 : Byte).toNat ∧ busy.control.group = none ∧
      (Instr.zoneVolume, (0x22 : Byte)) ∈ zoneRenderRows) :=
  ⟨⟨sends _ _ _ rfl rfl, by decide⟩, ⟨sends _ _ _ rfl rfl, by decide⟩⟩

/-! ## Witnesses: sources, ports and zones -/

/-- `busy` with the record of port `p` changed. -/
def ported (p : PortId) (x : Port) : State := { busy with ports := busy.ports.set p x }

/-- `busy` with entry 5 on port `p`, switched off or on. -/
def entry5 (p : PortId) (on : Bool) : State := { busy with sources := busy.sources.set 5 { src p with enabled := on } }

/-- SRC.DEFINE of entry `e`: port `p`, width `w`, two channels, trim 20, offset 101 ms. -/
def definition (e p w : Byte) : List Byte := [e, p, w, 2, 0, 1, 15, 15, 15, 15, 15, 15, 0, 20, 0, 101]

/-- Zone `z` HELD since 9900 with a delay of 10 samples. -/
def heldZone (z : ZoneId) : State := zoned z fun x => { x with state := .held, hold := some 9900, rampOut := true, allocation := 20, delay := 10 }

/-- Entries 5 and 6 enabled on P0, entry 6 with map `m`. -/
def onP0 (m : List Role) : State :=
  { busy with sources := (busy.sources.set 5 (src 0)).set 6 { src 0 with map := m } }

/-- An entry in use defined anew and switched off; a free entry defined with trim and offset outside their ranges; each field out of range, the
last values inside beside it. -/
theorem witness_SrcDefineAndEntriesInUse :
    (Sends (sent busy 0x10 (definition 0 2 24)) 0x10 (definition 0 2 24) ∧ busy.inUse 0 = true ∧
      sourceDefinition (definition 0 2 24) = some (2, 24, [0, 1]) ∧ (busy.source 0).port ≠ 2) ∧
    (Sends (sent busy 0x11 [0, 1]) 0x11 [byteOf (0 : SourceId), 1] ∧ (sent busy 0x11 [0, 1]).inUse 0 = true) ∧
    (Sends (sent busy 0x10 (definition 15 1 16)) 0x10 (definition 15 1 16) ∧
      definition 15 1 16 = byteOf (15 : SourceId) :: byteOf (1 : PortId) :: 16 :: 2 :: ([0, 1, 15, 15, 15, 15, 15, 15] ++ [0, 20, 0, 101]) ∧
      (busy.source 15).enabled = false ∧ (sent busy 0x10 (definition 15 1 16)).inUse 15 = false) ∧
    (Sends (sent busy 0x10 (definition 16 1 16)) 0x10 (definition 16 1 16) ∧ 15 < (16 : Byte).toNat ∧
      Sends (sent busy 0x10 (definition 15 11 16)) 0x10 (definition 15 11 16) ∧ 10 < (11 : Byte).toNat ∧
      Sends (sent busy 0x10 (definition 15 2 17)) 0x10 (definition 15 2 17) ∧ (2 : Byte).toNat ≤ 2 ∧ ¬ ((17 : Byte) = 16 ∨ (17 : Byte) = 20 ∨ (17 : Byte) = 24)) :=
  ⟨⟨sends _ _ _ rfl rfl, by decide, by decide, by decide⟩, ⟨sends _ _ _ rfl rfl, by decide⟩, ⟨sends _ _ _ rfl rfl, rfl, by decide, by decide⟩,
    ⟨sends _ _ _ rfl rfl, by decide, sends _ _ _ rfl rfl, by decide, sends _ _ _ rfl rfl, by decide⟩⟩

/-- SRC.DEFINE of an entry not in use, and of an entry in use with its port, width and map kept: on P0, with the map of the other enabled entry
and with another; enabled on its own port, and on another one that is named and that is not; trim alone, and an offset, its zone RUNNING and HELD. -/
theorem witness_SrcDefine_kept :
    ((2 : Byte).toNat = 2 ∧ ([0, 1] : List Role).Nodup ∧ ([0, 1, 15, 15, 15, 15, 15, 15] : List Byte).take (2 : Byte).toNat = ([0, 1] : List Role).map byteOf) ∧
    (Sends (sent (onP0 [0, 1]) 0x10 (definition 5 0 24)) 0x10 (definition 5 0 24) ∧ ((onP0 [0, 1]).source 5).port = 0 ∧
      ∀ x : SourceId, x ≠ 5 → ((onP0 [0, 1]).source x).enabled = true → ((onP0 [0, 1]).source x).port = 0 → ((onP0 [0, 1]).source x).map = [0, 1]) ∧
    (Sends (sent (onP0 [1, 0]) 0x10 (definition 5 0 24)) 0x10 (definition 5 0 24) ∧ ((onP0 [1, 0]).source 5).enabled = true ∧ (onP0 [1, 0]).inUse 5 = false ∧
      ((onP0 [1, 0]).source 6).enabled = true ∧ ((onP0 [1, 0]).source 6).port = 0 ∧ ((onP0 [1, 0]).source 6).map ≠ [0, 1]) ∧
    (Sends (sent (entry5 2 true) 0x10 (definition 5 2 24)) 0x10 (definition 5 2 24) ∧ ((entry5 2 true).source 5).port = 2 ∧
      (entry5 2 true).inUse 5 = false ∧ ((entry5 2 true).source 5).enabled = true ∧
      Sends (sent (entry5 2 true) 0x10 (definition 5 3 24)) 0x10 (definition 5 3 24) ∧ (entry5 2 true).named 3 = true ∧
      Sends (sent (entry5 2 true) 0x10 (definition 5 4 24)) 0x10 (definition 5 4 24) ∧ (entry5 2 true).named 4 = false) ∧
    (let d := [(0 : Byte), 1, 24, 2] ++ ([0, 1, 15, 15, 15, 15, 15, 15] ++ [255, 244, 0, 0])
     Sends (sent busy 0x10 d) 0x10 d ∧ busy.inUse 0 = true ∧ (busy.source 0).port = 1 ∧ (busy.source 0).width = 24 ∧ (busy.source 0).map = [0, 1] ∧
      ((busy.source 0).offset : Int) = max 0 (min 100 (word2 0 0))) ∧
    (Sends (sent busy 0x10 (definition 0 1 24)) 0x10 (definition 0 1 24) ∧ ((busy.source 0).offset : Int) ≠ max 0 (min 100 (word2 0 101)) ∧
      (busy.zone 0).source = some 0 ∧ (busy.zone 0).state = .running ∧ (busy.zone 2).source ≠ some 0) ∧
    (let s := heldZone 0
     Sends (sent s 0x10 (definition 0 1 24)) 0x10 (definition 0 1 24) ∧ (s.zone 0).source = some 0 ∧ (s.zone 0).state = .held ∧
      ∀ y : ZoneId, y ≠ 0 → (s.zone y).source ≠ some 0) :=
  ⟨by decide, ⟨sends _ _ _ rfl rfl, by decide⟩, ⟨sends _ _ _ rfl rfl, by decide⟩,
    ⟨sends _ _ _ rfl rfl, by decide, by decide, by decide, sends _ _ _ rfl rfl, by decide, sends _ _ _ rfl rfl, by decide⟩,
    ⟨sends _ _ _ rfl rfl, by decide⟩, ⟨sends _ _ _ rfl rfl, by decide⟩, ⟨sends _ _ _ rfl rfl, by decide⟩⟩

/-- A port that was not named (a watched one, a converter, P10 with the tuner IDLE), one that was; the last entry of a port, and one of two; an entry
already as asked for, and one whose map the other entry on P0 does not have. -/
theorem witness_SrcEnableNamesPort :
    (Sends (sent (entry5 5 false) 0x11 [5, 0]) 0x11 [byteOf (5 : SourceId), 0] ∧ ((entry5 5 false).source 5).enabled = false ∧
      (entry5 5 false).named 5 = false) ∧
    (Sends (sent (entry5 6 false) 0x11 [5, 0]) 0x11 [5, 0] ∧ (entry5 6 false).named 6 = false) ∧
    (Sends (sent (entry5 1 false) 0x11 [5, 0]) 0x11 [5, 0] ∧ (entry5 1 false).named 1 = true) ∧
    (Sends (sent (entry5 2 true) 0x11 [5, 1]) 0x11 [byteOf (5 : SourceId), 1] ∧ ((entry5 2 true).source 5).enabled = true ∧
      (sent (entry5 2 true) 0x11 [5, 1]).inUse 5 = false ∧
      ∀ x : SourceId, x ≠ 5 → ((entry5 2 true).source x).enabled = true → ((entry5 2 true).source x).port ≠ ((entry5 2 true).source 5).port) ∧
    (let s := { busy with sources := ready.sources.set 5 { src 10 with enabled := false } }
     Sends (sent s 0x11 [5, 0]) 0x11 [5, 0] ∧ s.named 10 = false ∧ s.tuner.state = .idle ∧ (s.source 5).port = 10) ∧
    (Sends (sent busy 0x11 [0, 0]) 0x11 [byteOf (0 : SourceId), 0] ∧ (busy.source 0).enabled = true) ∧
    (let s := { onP0 [1, 0] with sources := (onP0 [1, 0]).sources.set 5 { src 0 with enabled := false } }
     Sends (sent s 0x11 [5, 0]) 0x11 [5, 0] ∧ (s.source 5).enabled = false ∧ (s.source 5).port = 0 ∧ (s.source 6).enabled = true ∧
      (s.source 6).port = 0 ∧ (s.source 6).map ≠ (s.source 5).map) ∧
    (Sends (sent (entry5 5 false) 0x11 [5, 1]) 0x11 [5, 1] ∧ ((entry5 5 false).source 5).enabled = false ∧ (entry5 5 false).inUse 5 = false) ∧
    (Sends (sent (entry5 1 true) 0x11 [5, 1]) 0x11 [5, 1] ∧ ((entry5 1 true).source 5).enabled = true ∧ (entry5 1 true).inUse 5 = false ∧
      (0 : SourceId) ≠ 5 ∧ ((entry5 1 true).source 0).enabled = true ∧ ((entry5 1 true).source 0).port = ((entry5 1 true).source 5).port) :=
  ⟨⟨sends _ _ _ rfl rfl, by decide, by decide⟩, ⟨sends _ _ _ rfl rfl, by decide⟩, ⟨sends _ _ _ rfl rfl, by decide⟩,
    ⟨sends _ _ _ rfl rfl, by decide, by decide, by decide⟩, ⟨sends _ _ _ rfl rfl, by decide⟩, ⟨sends _ _ _ rfl rfl, by decide⟩,
    ⟨sends _ _ _ rfl rfl, by decide⟩, ⟨sends _ _ _ rfl rfl, by decide⟩, ⟨sends _ _ _ rfl rfl, by decide⟩⟩

/-- SRC.ENABLE of entry 16, with action 2, and off for an entry in use. -/
theorem witness_SrcEnableNamesPort_refused :
    (Sends (sent busy 0x11 [16, 0]) 0x11 [16, 0] ∧ 15 < (16 : Byte).toNat) ∧ (Sends (sent busy 0x11 [5, 2]) 0x11 [5, 2] ∧ 1 < (2 : Byte).toNat) ∧
    (Sends (sent busy 0x11 [0, 1]) 0x11 [byteOf (0 : SourceId), 1] ∧ (sent busy 0x11 [0, 1]).inUse 0 = true) :=
  ⟨⟨sends _ _ _ rfl rfl, by decide⟩, ⟨sends _ _ _ rfl rfl, by decide⟩, ⟨sends _ _ _ rfl rfl, by decide⟩⟩

/-- A measured rate, in mHz, within 0.2 % of a listed rate. -/
abbrev Near (measured : Nat) (r : RateCode) : Prop := 998 * Config.rateHz r ≤ measured ∧ measured ≤ 1002 * Config.rateHz r

/-- Ports 1 and 5 in each state, the stability timer not running, running for another rate, and for this one; measured rates at the bounds
of 48000 Hz, one just outside them, and another listed rate. -/
theorem witness_PortLockAndLoss :
    (Near 47904000 2 ∧ Near 48096000 2 ∧ Near 88200000 3 ∧ (∀ r, ¬ Near 47903999 r) ∧ (∀ r, ¬ Near 48096001 r) ∧ ∀ r, ¬ Near 0 r) ∧
    (let s := ported 5 { Port.reset with state := .noSignal }; (5 : PortId).val ≤ 5 ∧ (s.port 5).state = .noSignal) ∧
    (let s := ported 1 { Port.reset with state := .locking }; (s.port 1).state = .locking ∧ (s.port 1).stability = none) ∧
    (let s := ported 1 { Port.reset with state := .locking, stability := some (3, 9990) }
     (s.port 1).state = .locking ∧ (2 : RateCode) ≠ 3 ∧ (s.port 1).stability = some (3, 9990)) ∧
    ((busy.port 1).state = .locked ∧ (busy.port 1).rate = some 2 ∧ ¬ Near 47903999 2 ∧ ¬ Near 88200000 2 ∧ (busy.port 1).rate ≠ none) := by decide

/-- The sync word sought and expected, a word that is none at the limits of the count; format words with a channel count of 0, 12 and 13;
a mark that becomes set, and one that becomes clear, below and at a count of 4,096; a word a bound decoder takes and one no decoder takes; words
of 16, 24 and 30 bits. -/
theorem witness_SyncWatcherAndMark :
    takenWord ⟨24, 0x2B6E51⟩ = 0x2B6E51 ∧
    (let s := ported 3 { packed48 with phase := .seek, count := 7 }; (s.port 3).state = .locked ∧ (s.port 3).phase = .seek) ∧
    ((busy.port 3).state = .locked ∧ (busy.port 3).phase = .due) ∧
    (let s := ported 3 { packed48 with count := 4095, nonAudio := true }
     takenWord ⟨24, 1⟩ ≠ 0x2B6E51 ∧ (s.port 3).phase = .due ∧ (s.port 3).count = 4095 ∧ (s.port 3).count ≤ 4096) ∧
    (let s := ported 1 { locked48 with phase := .format, count := 4096 }
     (s.port 1).phase ≠ .seek ∧ (s.port 1).phase ≠ .due ∧ (s.port 1).count ≤ 4096) ∧
    (((0x200000 : TWord).extractLsb' 16 4).toNat = 0 ∧ ((0x2C0000 : TWord).extractLsb' 16 4).toNat = 12 ∧
      ((0x2D0000 : TWord).extractLsb' 16 4).toNat = 13) ∧
    (let s := ported 3 { packed48 with count := 100 }; 3 ≤ (3 : PortId).val ∧ (s.port 3).state = .locked ∧ (s.port 3).count < 4096) ∧
    (let s := ported 5 { packed48 with count := 4096, content := .pcm }
     (s.port 5).count = 4096 ∧ (s.port 5).state = .locked ∧ (s.port 5).content = if (s.port 5).nonAudio then .unsupported else .pcm) ∧
    (let s := ported 5 { packed48 with count := 4096, content := .unsupported, nonAudio := true }
     (s.port 5).count = 4096 ∧ (s.port 5).state = .locked ∧ (s.port 5).content = if (s.port 5).nonAudio then .unsupported else .pcm) ∧
    (busy.decoderOn 3 = some 0 ∧ (busy.port 3).content = .packed ∧ (busy.port 3).count < 4095 ∧
      ((busy.decoder 0).take (takenWord ⟨24, 1⟩)).state = (busy.decoder 0).state) ∧
    ((busy.port 1).content ≠ .packed ∧ ((busy.port 1).watch 1 (takenWord ⟨24, 1⟩)).content = (busy.port 1).content) ∧
    (65535 < 2 ^ 16 ∧ 0xFFFFFF < 2 ^ 24 ∧ 2 ^ 30 - 1 < 2 ^ 30) := by decide

/-- Off in RUNNING and in STANDBY, on in RUNNING and in STANDBY without a source. -/
theorem witness_ZonePowerMovesZone :
    (Sends (sent busy 0x20 [0, 1]) 0x20 [byteOf (0 : ZoneId), 1] ∧ (busy.zone 0).state ≠ .standby) ∧
    (Sends (sent busy 0x20 [2, 1]) 0x20 [byteOf (2 : ZoneId), 1] ∧ (busy.zone 2).state = .standby) ∧
    (Sends (sent busy 0x20 [0, 0]) 0x20 [byteOf (0 : ZoneId), 0] ∧ (busy.zone 0).state ≠ .standby) ∧
    (Sends (sent busy 0x20 [2, 0]) 0x20 [byteOf (2 : ZoneId), 0] ∧ (busy.zone 2).state = .standby ∧ (busy.zone 2).source = none) :=
  ⟨⟨sends _ _ _ rfl rfl, by decide⟩, ⟨sends _ _ _ rfl rfl, by decide⟩, ⟨sends _ _ _ rfl rfl, by decide⟩,
    ⟨sends _ _ _ rfl rfl, by decide, by decide⟩⟩

/-- `s` with zone 2 in STANDBY on entry `e`, and ZONE.POWER on sent. -/
def powering (s : State) (e : SourceId) : State :=
  sent { s with zones := s.zones.set 2 { Zone.reset 2 with source := some e } } 0x20 [2, 0]

/-- The zone of `powering` is as the statement asks. -/
theorem witness_AcquisitionTest_zone (e : SourceId) :
    Sends (powering busy e) 0x20 [byteOf (2 : ZoneId), 0] ∧ ((powering busy e).zone 2).state = .standby ∧
    ((powering busy e).zone 2).source = some e ∧ ((powering busy e).zone 2).decoder = none :=
  ⟨sends _ _ _ rfl rfl, rfl, rfl, rfl⟩

/-- Each check of the acquisition test decides once: a disabled entry, a port that is not LOCKED, its content UNDETERMINED, UNSUPPORTED,
PCM; PACKED with both decoders bound elsewhere, with a free decoder, and with one LOCKED on the port; a slot of the zone, its lane on a module, and a
span position at and beside a multiple of 32. -/
theorem witness_AcquisitionTestDecides :
    ((powering busy 7).source 7).enabled = false ∧
    (let s := powering (ported 1 { locked48 with state := .locking }) 0; (s.source 0).enabled = true ∧ (s.port (s.source 0).port).state ≠ .locked) ∧
    (let s := powering (ported 1 { locked48 with content := .undetermined }) 0; (s.port (s.source 0).port).content = .undetermined) ∧
    (let s := powering (ported 1 { locked48 with content := .unsupported }) 0; (s.port (s.source 0).port).content = .unsupported) ∧
    (let s := powering busy 0
     (s.port (s.source 0).port).state = .locked ∧ (s.port (s.source 0).port).content = .pcm ∧ (s.port (s.source 0).port).rate = some 2) ∧
    (let s := powering { ported 1 packed48 with decoders := busy.decoders.set 1 { Decoder.reset with state := .search, port := some 5 } } 0
     (s.source 0).port = 1 ∧ (s.port 1).content = .packed ∧
      (∀ d : DecoderId, (s.decoder d).port ≠ some 1 ∧ (s.decoder d).port ≠ none) ∧ (2 : ZoneId) ∉ s.waitList) ∧
    (let s := powering (ported 1 packed48) 0
     (s.port 1).content = .packed ∧ (∀ d' : DecoderId, (s.decoder d').port ≠ some 1) ∧ (s.decoder 1).port = none ∧
      ∀ d' : DecoderId, d' < 1 → (s.decoder d').port ≠ none) ∧
    (let s := powering busy 2
     (s.source 2).port = 3 ∧ (s.port 3).content = .packed ∧ s.decoderOn 3 = some 0 ∧ (s.decoder 0).state = .locked ∧
      (s.decoder 0).header = some frame0.header ∧ (s.decoder 0).playPos % 32 = 0 ∧ (s.decoder 0).playPos < 256) ∧
    ({ locked0 with playPos := 33 } : Decoder).playPos % 32 ≠ 0 ∧
    (let s := powering { busy with slots := busy.slots.set 5 (slotOn 2 0 (.amp 5 2)) } 0
     (s.slot 5).assigned = some { zone := 2, role := 0, dest := .amp 5 2 } ∧ s.missing (.amp 5 2) = none ∧
      s.ampRates.Pairwise (fun a b => a.1.toNat < b.1.toNat) ∧ (s.slot 1).assigned = some { zone := 0, role := 1, dest := .amp 5 1 }) := by decide

/-- An announcement's entry and one of the host's. -/
def stk : StackEntry := { source := some 1, volume := -9, mute := true, cause := .announcement }
def hostStk : StackEntry := { stk with cause := .host, volume := 3 }

/-- Zone 0 with a stack. -/
def stacked (l : List StackEntry) : State := zoned 0 fun x => { x with stack := l }

/-- A disabled source; in STANDBY; the same source; none; another source. -/
theorem witness_ZoneSourceSelects :
    (Sends (sent busy 0x21 [0, 7]) 0x21 [byteOf (0 : ZoneId), byteOf (7 : SourceId)] ∧ (busy.source 7).enabled = false) ∧
    (Sends (sent busy 0x21 [2, 255]) 0x21 [byteOf (2 : ZoneId), 255] ∧ (busy.zone 2).state = .standby) ∧
    (let s := stacked [stk, hostStk]
     Sends (sent s 0x21 [0, 0]) 0x21 [0, 0] ∧ (s.source 0).enabled = true ∧ (s.zone 0).state ≠ .standby ∧ (s.zone 0).source = some 0) ∧
    (Sends (sent busy 0x21 [0, 255]) 0x21 [0, 255] ∧ (busy.zone 0).source ≠ none) ∧
    (Sends (sent busy 0x21 [0, 2]) 0x21 [0, 2] ∧ (busy.source 2).enabled = true ∧ (busy.zone 0).source ≠ some 2) :=
  ⟨⟨sends _ _ _ rfl rfl, by decide⟩, ⟨sends _ _ _ rfl rfl, by decide⟩, ⟨sends _ _ _ rfl rfl, by decide, by decide, by decide⟩,
    ⟨sends _ _ _ rfl rfl, by decide⟩, ⟨sends _ _ _ rfl rfl, by decide, by decide⟩⟩

theorem witness_ZoneMaxvolSetsCeiling :
    (Sends (sent busy 0x23 [3, 0, 0]) 0x23 [3, 0, 0] ∧ 2 < (3 : Byte).toNat) ∧
    (Sends (sent busy 0x23 [2, 255, 0]) 0x23 [2, 255, 0] ∧ (2 : Byte) = byteOf (2 : ZoneId)) :=
  ⟨⟨sends _ _ _ rfl rfl, by decide⟩, ⟨sends _ _ _ rfl rfl, by decide⟩⟩

/-- A push that is refused (four entries) and one taken with three; a pop of an empty stack and of one of two. -/
theorem witness_ZonePushAndPop :
    (let s := stacked [stk, stk, stk, stk]; Sends (sent s 0x25 [0, 1, 0, 25]) 0x25 [byteOf (0 : ZoneId), byteOf (1 : SourceId), 0, 25] ∧
      4 ≤ (s.zone 0).stack.length) ∧
    (let s := stacked [stk, stk, stk]; Sends (sent s 0x25 [0, 1, 0, 25]) 0x25 [byteOf (0 : ZoneId), byteOf (1 : SourceId), 0, 25] ∧
      (s.zone 0).state ≠ .standby ∧ (s.zone 0).stack.length < 4 ∧ (s.source 1).enabled = true ∧ -160 ≤ (s.zone 0).maxVolume ∧
      (s.zone 0).source ≠ some 1) ∧
    (Sends (sent busy 0x26 [0]) 0x26 [byteOf (0 : ZoneId)] ∧ (busy.zone 0).stack = []) ∧
    (let s := stacked [stk, hostStk]; Sends (sent s 0x26 [0]) 0x26 [byteOf (0 : ZoneId)] ∧ (s.zone 0).stack = stk :: [hostStk] ∧
      -160 ≤ (s.zone 0).maxVolume) :=
  ⟨⟨sends _ _ _ rfl rfl, by decide⟩, ⟨sends _ _ _ rfl rfl, by decide, by decide, by decide, by decide, by decide⟩,
    ⟨sends _ _ _ rfl rfl, by decide⟩, ⟨sends _ _ _ rfl rfl, by decide, by decide⟩⟩

/-- IGNORE; FOLLOW with an entry on P1, with a disabled one on P10, with an enabled one on P10. -/
theorem witness_ZoneAnnounceSetsPolicy :
    Sends (sent busy 0x27 [0, 0, 3, 255, 0]) 0x27 [byteOf (0 : ZoneId), 0, byteOf (3 : SourceId), 255, 0] ∧
    (Sends (sent busy 0x27 [0, 1, 0, 0, 25]) 0x27 [0, 1, byteOf (0 : SourceId), 0, 25] ∧ (busy.source 0).port ≠ 10) ∧
    (Sends (sent (entry5 10 false) 0x27 [0, 1, 5, 0, 25]) 0x27 [0, 1, 5, 0, 25] ∧ ((entry5 10 false).source 5).port = 10 ∧
      ((entry5 10 false).source 5).enabled = false) ∧
    (Sends (sent busy 0x27 [0, 1, 1, 0, 25]) 0x27 [0, 1, byteOf (1 : SourceId), 0, 25] ∧ (busy.source 1).port = 10 ∧
      (busy.source 1).enabled = true) :=
  ⟨sends _ _ _ rfl rfl, ⟨sends _ _ _ rfl rfl, by decide⟩, ⟨sends _ _ _ rfl rfl, by decide, by decide⟩,
    ⟨sends _ _ _ rfl rfl, by decide, by decide⟩⟩

theorem witness_ZoneFlagsClearClears :
    (Sends (sent busy 0x2C [3]) 0x2C [3] ∧ 2 < (3 : Byte).toNat) ∧ (Sends (sent busy 0x2C [0]) 0x2C [0] ∧ (0 : Byte) = byteOf (0 : ZoneId)) :=
  ⟨⟨sends _ _ _ rfl rfl, by decide⟩, ⟨sends _ _ _ rfl rfl, by decide⟩⟩

/-- A HELD zone on a locked port, and one whose port has lost its stream. -/
theorem witness_HoldTimerExpires :
    (((heldZone 1).zone 1).state = .held ∧ ((heldZone 1).zone 1).hold = some 9900) ∧
    (let s := { heldZone 0 with ports := busy.ports.set 1 { Port.reset with state := .noSignal } }
     (s.zone 0).state = .held ∧ (s.zone 0).hold = some 9900 ∧ (s.zone 0).source = some 0 ∧ (s.source 0).enabled = true ∧
      (s.port (s.source 0).port).state ≠ .locked) := by decide

theorem witness_HeldAndReturned :
    (let s := ported 1 { locked48 with state := .noSignal }
     (s.zone 0).source = some 0 ∧ (s.source 0).port = 1 ∧ (s.zone 0).state = .running ∧ (s.zone 0).lipsyncDue = false ∧ (s.port 1).state ≠ .locked) ∧
    (let s := heldZone 0
     (s.zone 0).source = some 0 ∧ (s.zone 0).state = .held ∧ (s.zone 0).decoder = none ∧ (s.zone 0).rate = some 2 ∧ (s.port 1).state = .locked ∧
      (s.port 1).content = .pcm ∧ (s.port 1).rate = some 2 ∧ (s.slot 1).assigned = some { zone := 0, role := 1, dest := .amp 5 1 } ∧
      s.ampRates.Pairwise (fun a b => a.1.toNat < b.1.toNat)) ∧
    ((1 : PortId).val ≤ 5 ∧ (busy.port 1).state = .locked ∧ (busy.zone 0).source = some 0 ∧ (busy.source 0).port = 1 ∧
      (busy.zone 0).state = .running ∧ (busy.zone 0).lipsyncDue = false ∧ (0 : ZoneId) ∉ busy.waitList) := by decide

/-- Zone 0 about to leave RUNNING: the distance of slot 1 waits and gives a delay other than the one held, slot 0 has none that waits, slot 2 is of
another zone, slot 9 of none. -/
theorem witness_HeldAndReturned_distance :
    let s := { ported 1 { locked48 with state := .noSignal } with slots := busy.slots.set 1 { busy.slot 1 with distance := 1000, distanceDue := true } }
    (s.zone 0).source = some 0 ∧ (s.source 0).port = 1 ∧ (s.zone 0).state = .running ∧ (s.zone 0).lipsyncDue = false ∧ (s.port 1).state ≠ .locked ∧
      (s.zone 0).rate = some 2 ∧ (s.slot 1).assigned = some { zone := 0, role := 1, dest := .amp 5 1 } ∧ (s.slot 1).distanceDue = true ∧
      (1000 * Config.rateHz 2 + 17150) / 34300 ≠ (s.slot 1).delay ∧ (s.slot 0).distanceDue = false ∧
      (s.slot 2).assigned.any (fun a => a.zone == 0) = false ∧ (s.slot 9).assigned = none := by decide

/-- Zone 0 follows announcements with entry 1, at volume 30. -/
def following (l : List StackEntry) : State :=
  zoned 0 fun x => { x with policy := .follow, annSource := some 1, annVolume := 30, stack := l }

/-- `following` on FM with the code of the group stable, a run of `set` groups with the flag set and of `clear` ones with it clear. -/
def announcing (set clear : Nat) (active : Option Nat) : State :=
  { following [hostStk] with stationData := { StationData.reset with
      stable := some 0xC201, setRun := set, clearRun := clear, active := active, rearm := false } }

/-- A zone that does not follow, one with a full stack, one with three entries; an end with no ANNOUNCEMENT entry, one on top, one below; a
group that starts an announcement, one that ends it, the timeout of one. -/
theorem witness_AnnouncementsTakeAndReleaseZones :
    (busy.zone 0).policy ≠ .follow ∧
    (let s := following [stk, stk, stk, stk]
     (s.zone 0).state ≠ .standby ∧ (s.zone 0).policy = .follow ∧ (s.zone 0).source = some 0 ∧ (s.source 0).port ≠ 10 ∧ 4 ≤ (s.zone 0).stack.length) ∧
    (let s := following [hostStk, hostStk, hostStk]
     (s.zone 0).policy = .follow ∧ (s.zone 0).stack.length < 4 ∧ -160 ≤ (s.zone 0).maxVolume) ∧
    (∀ y ∈ ((stacked [hostStk]).zone 0).stack, y.cause = .host) ∧
    (((stacked [stk, hostStk]).zone 0).stack = stk :: [hostStk] ∧ stk.cause = .announcement ∧ -160 ≤ ((stacked [stk]).zone 0).maxVolume) ∧
    (((stacked [hostStk, hostStk, stk, hostStk]).zone 0).stack = [hostStk] ++ hostStk :: stk :: [hostStk] ∧ hostStk.cause = .host) ∧
    ((announcing 1 0 none).tuner.state = .idle ∧ (announcing 1 0 none).tuner.band = .fm ∧ (0x0F : Byte).toNat / 16 = 0 ∧
      (0xC2 : Byte) ++ (0x01 : Byte) ≠ (0 : BitVec 16) ∧ (announcing 1 0 none).stationData.stable = some ((0xC2 : Byte) ++ (0x01 : Byte)) ∧
      (2 : Byte).getLsbD 1 = true ∧ 1 ≤ (announcing 1 0 none).stationData.setRun ∧ (announcing 1 0 none).stationData.active = none ∧
      (announcing 1 0 none).stationData.rearm = false) ∧
    ((0xFD : Byte).getLsbD 1 = false ∧ 1 ≤ (announcing 0 1 (some 9000)).stationData.clearRun ∧
      (announcing 0 1 (some 9000)).stationData.active = some 9000) := by decide

/-! ## Witnesses: rendering, groups, decoders -/

/-- Zone 0's sizes: FL and LFE SMALL, a top channel SMALL. -/
def sizes12 : Vector Size 12 :=
  #v[.small, .large, .absent, .small, .large, .large, .absent, .absent, .absent, .absent, .absent, .small]

/-- Two rows over the map FL, LFE, TBR. -/
def twoRows : List MatrixRow := [{ role := 4, coefs := [1, -2, 32767] }, { role := 0, coefs := [1, -32768, 32767] }]

/-- MATRIX.LOAD of zone 0: option WHOLE with two rows, option ROW with one of role `r`. -/
def loadWhole : List Byte := byteOf (0 : ZoneId) :: 0 :: BitVec.ofNat 8 3 :: (([0, 3, 11] : List Role).map byteOf ++ BitVec.ofNat 8 2 :: twoRows.flatMap rowBytes)
def loadRow (r : Role) : List Byte :=
  byteOf (0 : ZoneId) :: 1 :: BitVec.ofNat 8 3 :: (([0, 3, 11] : List Role).map byteOf ++ 1 :: rowBytes { role := r, coefs := [7, 8, -9] })

/-- XOVER.LOAD of zone 0's low set. -/
def loadXover : List Byte := byteOf (0 : ZoneId) :: 1 :: (bytes4 1 ++ bytes4 (-2) ++ bytes4 3 ++ bytes4 4 ++ bytes4 0x80000000)

/-- Zone 0 with the two rows stored. -/
def storing : State := zoned 0 fun x => { x with store := some { map := [0, 3, 11], rows := twoRows } }

/-- Each render command of a zone, alone; a lip-sync in RUNNING and in HELD; a row loaded without and with a store of that map. -/
theorem witness_ZoneRenderCommandsAlone :
    busy.control.group = none ∧
    (Sends (sent busy 0x22 [0, 255, 0]) 0x22 [byteOf (0 : ZoneId), 255, 0] ∧ -160 ≤ (busy.zone 0).maxVolume) ∧
    Sends (sent busy 0x24 [0, 0]) 0x24 [byteOf (0 : ZoneId), if true then 0 else 1] ∧ Sends (sent busy 0x29 [0, 1]) 0x29 [byteOf (0 : ZoneId), if false then 0 else 1] ∧
    Sends (sent busy 0x2A [0, 0]) 0x2A [0, 0] ∧ Sends (sent busy 0x3B [0, 1]) 0x3B [0, 1] ∧
    (Sends (sent busy 0x28 [0, 0, 201]) 0x28 [byteOf (0 : ZoneId), 0, 201] ∧ (busy.zone 0).state ≠ .held) ∧
    (Sends (sent (heldZone 0) 0x28 [0, 0, 50]) 0x28 [byteOf (0 : ZoneId), 0, 50] ∧ ((heldZone 0).zone 0).state = .held ∧
      ((heldZone 0).zone 0).source = some 0 ∧ ((heldZone 0).zone 0).rate = some 2 ∧ ((heldZone 0).zone 0).map = some [0, 1]) ∧
    (Sends (sent busy 0x38 (byteOf (0 : ZoneId) :: sizes12.toList.map sizeByte)) 0x38 (byteOf (0 : ZoneId) :: sizes12.toList.map sizeByte) ∧
      sizes12[0] ≠ .absent ∧ sizes12[1] ≠ .absent) ∧
    Sends (sent busy 0x39 loadXover) 0x39 loadXover ∧
    (Sends (sent busy 0x3A loadWhole) 0x3A loadWhole ∧ ([0, 3, 11] : List Role).Nodup ∧ (twoRows.map (·.role)).Nodup ∧
      ∀ r ∈ twoRows, r.coefs.length = 3 ∧ ∀ v ∈ r.coefs, -32768 ≤ v ∧ v ≤ 32767) ∧
    (Sends (sent busy 0x3A (loadRow 0)) 0x3A (loadRow 0) ∧ (busy.zone 0).staged.loads = [] ∧ (busy.zone 0).store.map (·.map) ≠ some [0, 3, 11]) ∧
    (Sends (sent storing 0x3A (loadRow 1)) 0x3A (loadRow 1) ∧ (storing.zone 0).staged.loads = [] ∧
      (storing.zone 0).store = some { map := [0, 3, 11], rows := twoRows }) :=
  ⟨rfl, ⟨sends _ _ _ rfl rfl, by decide⟩, sends _ _ _ rfl rfl, sends _ _ _ rfl rfl, sends _ _ _ rfl rfl, sends _ _ _ rfl rfl,
    ⟨sends _ _ _ rfl rfl, by decide⟩, ⟨sends _ _ _ rfl rfl, by decide⟩, ⟨sends _ _ _ rfl rfl, by decide⟩, sends _ _ _ rfl rfl,
    ⟨sends _ _ _ rfl rfl, by decide⟩, ⟨sends _ _ _ rfl rfl, by decide⟩, ⟨sends _ _ _ rfl rfl, by decide⟩⟩

/-- Slot 9 is unassigned, slot 1 is assigned to zone 0, RUNNING and HELD. -/
theorem witness_SlotRenderCommandsAlone :
    (Sends (sent busy 0x42 [9, 1, 2]) 0x42 [byteOf (9 : SlotId), 1, 2] ∧ Sends (sent busy 0x43 [9, 1, 2]) 0x43 [9, 1, 2] ∧
      Sends (sent busy 0x44 [9, 1, 2]) 0x44 [9, 1, 2] ∧ (busy.slot 9).assigned = none) ∧
    (Sends (sent busy 0x43 [1, 255, 232]) 0x43 [byteOf (1 : SlotId), 255, 232] ∧ Sends (sent busy 0x44 [1, 0, 48]) 0x44 [1, 0, 48] ∧
      Sends (sent busy 0x42 [1, 3, 232]) 0x42 [1, 3, 232] ∧ (busy.slot 1).assigned = some { zone := 0, role := 1, dest := .amp 5 1 } ∧
      (busy.zone 0).state ≠ .held ∧ busy.control.group = none) ∧
    (Sends (sent (heldZone 0) 0x42 [1, 3, 232]) 0x42 [1, 3, 232] ∧ ((heldZone 0).slot 1).assigned = some { zone := 0, role := 1, dest := .amp 5 1 } ∧
      ((heldZone 0).zone 0).state = .held ∧ ((heldZone 0).zone 0).rate = some 2) :=
  ⟨⟨sends _ _ _ rfl rfl, sends _ _ _ rfl rfl, sends _ _ _ rfl rfl, by decide⟩,
    ⟨sends _ _ _ rfl rfl, sends _ _ _ rfl rfl, sends _ _ _ rfl rfl, by decide⟩, ⟨sends _ _ _ rfl rfl, by decide⟩⟩

/-- `s` with a command with CONTINUE set at the head. -/
def grouped (s : State) (k : Byte) (p : List Byte) : State := host s (cmd k p 1)

/-- A command with CONTINUE set, sent between events, heads the queue when its form is right. -/
theorem staged (s : State) (k : Byte) (p : List Byte) (h : Calm s) (f : (cmd k p 1).formRight = true) :
    Calm (grouped s k p) ∧ Heads (grouped s k p) (cmd k p 1) ∧ (cmd k p 1).flags = 1 := ⟨h, ⟨rfl, f⟩, rfl⟩

/-- Each row that stages something, with operands inside the ranges and at their ends. -/
theorem witness_GroupedCommandOnlyStages :
    (Calm (grouped busy 0x22 [0, 0, 99]) ∧ Heads (grouped busy 0x22 [0, 0, 99]) (cmd 0x22 [0, 0, 99] 1) ∧ (cmd 0x22 [0, 0, 99] 1).flags = 1 ∧
      (Instr.zoneVolume, (0x22 : Byte)) ∈ renderRows ∧ -160 ≤ (busy.zone 0).maxVolume ∧ [(0 : Byte), 0, 99] = [byteOf (0 : ZoneId), 0, 99] ∧
      ∃ t, exec .zoneVolume (grouped busy 0x22 [0, 0, 99]) = .next t) ∧
    (Heads (grouped busy 0x24 [2, 1]) (cmd 0x24 [2, 1] 1) ∧ ∃ t, exec .zoneMute (grouped busy 0x24 [2, 1]) = .next t) ∧
    (Heads (grouped busy 0x43 [1, 0, 24]) (cmd 0x43 [1, 0, 24] 1) ∧ (busy.slot 1).assigned ≠ none ∧
      ∃ t, exec .slotTrim (grouped busy 0x43 [1, 0, 24]) = .next t) ∧
    (Heads (grouped busy 0x28 [0, 0, 201]) (cmd 0x28 [0, 0, 201] 1) ∧ Heads (grouped busy 0x29 [0, 1]) (cmd 0x29 [0, 1] 1) ∧
      Heads (grouped busy 0x2A [0, 0]) (cmd 0x2A [0, 0] 1) ∧ Heads (grouped busy 0x3B [0, 1]) (cmd 0x3B [0, 1] 1)) ∧
    (Heads (grouped busy 0x38 (byteOf (0 : ZoneId) :: sizes12.toList.map sizeByte)) (cmd 0x38 (byteOf (0 : ZoneId) :: sizes12.toList.map sizeByte) 1) ∧
      sizes12[0] ≠ .absent ∧ sizes12[1] ≠ .absent) ∧
    Heads (grouped busy 0x39 loadXover) (cmd 0x39 loadXover 1) ∧
    (Heads (grouped busy 0x3A loadWhole) (cmd 0x3A loadWhole 1) ∧ ([0, 3, 11] : List Role).Nodup ∧ (twoRows.map (·.role)).Nodup ∧
      ∀ r ∈ twoRows, r.coefs.length = 3 ∧ ∀ v ∈ r.coefs, -32768 ≤ v ∧ v ≤ 32767) ∧
    (Heads (grouped busy 0x42 [1, 3, 233]) (cmd 0x42 [1, 3, 233] 1) ∧ Heads (grouped busy 0x44 [1, 0, 49]) (cmd 0x44 [1, 0, 49] 1)) :=
  ⟨⟨rfl, ⟨rfl, rfl⟩, rfl, by decide, by decide, rfl, _, rfl⟩, ⟨⟨rfl, rfl⟩, _, rfl⟩, ⟨⟨rfl, rfl⟩, by decide, _, rfl⟩,
    ⟨(staged _ _ _ rfl rfl).2.1, (staged _ _ _ rfl rfl).2.1, (staged _ _ _ rfl rfl).2.1, (staged _ _ _ rfl rfl).2.1⟩,
    ⟨(staged _ _ _ rfl rfl).2.1, by decide⟩, (staged _ _ _ rfl rfl).2.1, ⟨(staged _ _ _ rfl rfl).2.1, by decide⟩,
    (staged _ _ _ rfl rfl).2.1, (staged _ _ _ rfl rfl).2.1⟩

/-- A group is open with a volume staged for zone 0 and a trim for slot 1. -/
def staging : State :=
  let s := zoned 0 fun x => { x with staged := { x.staged with volume := some 3 } }
  { s with
    slots := s.slots.set 1 { s.slot 1 with staged := { (s.slot 1).staged with trim := some 2 } }
    control := { s.control with group := some { count := 2, since := 9900 }, enabled := s.control.enabled.set 12 false } }

theorem witness_GroupCloseAndExpiry :
    (Sends (sent staging 0x22 [3, 0, 0]) 0x22 [3, 0, 0] ∧ (sent staging 0x22 [3, 0, 0]).control.group = some { count := 2, since := 9900 } ∧
      (Instr.zoneVolume, (0x22 : Byte)) ∈ zoneRenderRows ∧ 2 < (3 : Byte).toNat ∧ -160 ≤ (staging.zone 0).maxVolume) ∧
    (Sends (sent staging 0x44 [1, 0, 49]) 0x44 [byteOf (1 : SlotId), 0, 49] ∧ (staging.slot 1).assigned ≠ none) ∧
    (staging.control.group = some { count := 2, since := 9900 } ∧ staging.control.enabled[(12 : Fin 13)] = false) :=
  ⟨⟨sends _ _ _ rfl rfl, by decide⟩, ⟨sends _ _ _ rfl rfl, by decide⟩, by decide⟩

/-- `staging` with zone 0 HELD, a lip-sync and upmix staged for it, and a distance for slot 1. -/
def stagingHeld : State :=
  let z := staging.zone 0
  { staging with
    zones := staging.zones.set 0 { z with state := .held, staged := { z.staged with lipsync := some 250, upmix := some true } }
    slots := staging.slots.set 1 { staging.slot 1 with staged := { (staging.slot 1).staged with distance := some 1000 } } }

/-- The hypotheses for a RUNNING zone, a HELD zone with a lip-sync and a slot with a distance, and what the close leaves: the marks of the RUNNING
zone wait for its boundary, the HELD zone has its delay at once, 250 ms at 48000 Hz, and its slot 1399 samples. -/
theorem witness_GroupCloseAndExpiry_zones :
    ((staging.zone 0).state = .running ∧ (staging.zone 0).staged.lipsync = none ∧ (staging.slot 1).staged.distance = none) ∧
    (let s := stagingHeld
     (s.zone 0).state = .held ∧ (s.zone 0).staged.lipsync = some 250 ∧ (s.zone 0).source = some 0 ∧ (s.zone 0).rate = some 2 ∧
      (s.zone 0).map = some [0, 1] ∧ (s.slot 1).staged.distance = some 1000 ∧
      (s.slot 1).assigned = some { zone := 0, role := 1, dest := .amp 5 1 }) ∧
    ((stagingHeld.closeGroup.zone 0).delay = 12000 ∧ (stagingHeld.closeGroup.zone 0).stale = true ∧
      (stagingHeld.closeGroup.slot 1).delay = 1399) ∧
    (let s : State := { stagingHeld with zones := stagingHeld.zones.set 0 { stagingHeld.zone 0 with state := .running } }
     (s.closeGroup.zone 0).lipsyncDue = true ∧ (s.closeGroup.zone 0).deriveDue = true ∧ (s.closeGroup.slot 1).distanceDue = true) := by decide

/-- An assembly of two channels at a place. -/
def assembly (p : Place) : Assembly := { Assembly.begin with rate := 2, channels := 2, roles := [0, 1], place := p, sequence := 5 }

/-- The last metadata word, the end of a channel block, the check word; a format word of 12 channels, and of 13, of rate 7 and with bit 0 set; a map
word of two channels, with a role again, and with a code beyond the count; metadata words of each type at the ends of the ranges; a channel word. -/
theorem witness_FrameWordsChecked :
    ((assembly (.metadata 15)).place = .metadata 15 ∧ ∃ a', (assembly (.metadata 15)).take 0x800000 = .more a') ∧
    ((assembly (.channel 0 255)).place = .channel 0 255 ∧ ∃ a', (assembly (.channel 0 255)).take 0x800001 = .more a') ∧
    ((assembly (.channel 1 255)).place = .channel 1 255 ∧ ∃ a', (assembly (.channel 1 255)).take 0x800001 = .more a') ∧
    ((assembly .check).place = .check ∧ (0x800000 : TWord).getLsbD 23 = true) ∧
    (let bits := fun (w : TWord) (lo n : Nat) => (w.extractLsb' lo n).toNat
     (let w : TWord := 0x2C8000
      w.getLsbD 23 = false ∧ bits w 20 3 = (2 : RateCode).val ∧ bits w 16 4 = 12 ∧ bits w 0 11 = 0 ∧ bits 0x2D8000 16 4 = 13 ∧
        bits 0x728000 20 3 = 7 ∧ bits 0x228001 0 11 = 1) ∧
      (let w : TWord := 0x801FFF
       w.getLsbD 23 = decide (0 + 1 = (2 + 4) / 5) ∧ bits w 20 3 = 0 ∧ [bits w 16 4, bits w 12 4, bits w 8 4, bits w 4 4, bits w 0 4] = [0, 1, 15, 15, 15] ∧
        bits 0x800FFF 12 4 = 0 ∧ bits 0x801EFF 8 4 ≠ 15) ∧
      (14 < 15 ∧ (bits 0x0000D0 20 3 = 0 ∧ ((0x0000D0 : TWord).extractLsb' 0 8).toInt = -48) ∧
        (bits 0x10FF0C 20 3 = 1 ∧ ((0x10FF0C : TWord).extractLsb' 0 8).toInt = 12 ∧ bits 0x10FF0C 8 8 = 255) ∧
        (bits 0x2000E8 20 3 = 2 ∧ ((0x2000E8 : TWord).extractLsb' 0 8).toInt = -24) ∧
        (bits 0x300001 20 3 = 3 ∧ ((0x300001 : TWord).extractLsb' 0 8).toInt = 1) ∧ bits 0xC00000 20 3 = 4 ∧ (0xC00000 : TWord).getLsbD 23 = true) ∧
      ((0x0FFFFF : TWord).getLsbD 23 = decide (254 = 255) ∧ (0x880000 : TWord).getLsbD 23 = decide (255 = 255))) :=
  ⟨⟨rfl, _, rfl⟩, ⟨rfl, _, rfl⟩, ⟨rfl, _, rfl⟩, ⟨rfl, rfl⟩, by decide⟩

/-- A decoder awaiting confirmation; one LOCKED at the frame's rate; a bad count of 2 and of 3; SEARCH; another rate; a word in each mode of a
decoder that is not IDLE: a candidate format word with each outcome, a word of an assembly with each outcome. -/
theorem witness_DecoderStateChanges :
    (let d : Decoder := { locked0 with state := .confirm, mode := .expect, confirm := some frame0 }
     d.state = .confirm ∧ d.mode = .expect ∧ d.confirm = some frame0 ∧ (0x2B6E52 : TWord) ≠ 0x2B6E51) ∧
    (locked0.state = .locked ∧ locked0.header = some frame0.header ∧ frame0.header.rate = (assembly .check).rate ∧
      frame0.header.rate ≠ ({ assembly .check with rate := 3 } : Assembly).rate) ∧
    (({ locked0 with state := .hold, bad := 2 } : Decoder).bad < 3 ∧ ({ locked0 with state := .hold, bad := 3 } : Decoder).state = .hold ∧
      3 ≤ ({ locked0 with state := .hold, bad := 3 } : Decoder).bad) ∧
    (({ locked0 with state := .search } : Decoder).state = .search ∧ Decoder.reset.state = .idle ∧ locked0.state ≠ .idle ∧ locked0.mode = .scan ∧
      ({ locked0 with mode := .candidate } : Decoder).mode = .candidate ∧ ({ locked0 with mode := .expect } : Decoder).state ≠ .confirm ∧
      ({ locked0 with mode := .assemble (assembly .check) } : Decoder).mode = .assemble (assembly .check)) ∧
    ((0x228000 : TWord).getLsbD 23 = false ∧ ((0x228000 : TWord).extractLsb' 20 3).toNat = (2 : RateCode).val ∧
      ((0x228000 : TWord).extractLsb' 16 4).toNat = 2 ∧ ((0x228000 : TWord).extractLsb' 0 11).toNat = 0 ∧
      ((0x2B6E51 : TWord).extractLsb' 0 11).toNat ≠ 0) ∧
    (assembly .check).take 0xAB6E51 = .verified (assembly .check) ∧ (assembly .check).take 0x800001 = .rejected .check ∧
    ∃ a', (assembly (.channel 0 0)).take 1 = .more a' :=
  ⟨⟨rfl, rfl, rfl, by decide⟩, ⟨rfl, rfl, rfl, by decide⟩, by decide, ⟨rfl, rfl, by decide, rfl, rfl, by decide, rfl⟩, by decide, rfl, rfl, _, rfl⟩

/-- Points at 64 and 200 (the example of R48): before the first, at the first, at the last place of all; a decoder without metadata, playing a frame,
and in a span of zeros. -/
theorem witness_DynamicGainOfFrame :
    let a := { assembly .check with points := [{ position := 64, gain := -10 }, { position := 200, gain := 0 }] }
    (∀ q ∈ (a.frame none).points, 63 < q.position) ∧
    ((a.frame none).points = [] ++ { position := 64, gain := -10 } :: [{ position := 200, gain := 0 }] ∧ 64 ≤ 64 ∧ 199 < 200) ∧
    ((a.frame none).points = [{ position := 64, gain := -10 }] ++ { position := 200, gain := 0 } :: [] ∧ 200 ≤ 255) ∧
    Decoder.reset.metadata = none ∧ (locked0.metadata = some (frame0.metadata 0) ∧ locked0.playing = some frame0) ∧
    ({ locked0 with playing := none } : Decoder).playing = none :=
  ⟨by decide, by decide, by decide, rfl, ⟨rfl, rfl⟩, rfl⟩

/-- Decoder 0 with a frame ready whose map has the two channels the other way round. -/
def turned : Frame := { frame0 with header := { frame0.header with map := [1, 0] } }
def turning : State := { busy with decoders := busy.decoders.set 0 { locked0 with ready := some turned } }

/-- Decoder 0 with a frame ready. -/
def readying : State := { busy with decoders := busy.decoders.set 0 { locked0 with ready := some { frame0 with level := -9 } } }

/-- A frame of one channel is ready, its decoder in state `st`; zone 1 plays two channels and asks for a lip-sync of 200 ms, zone 2 plays `map`
from the same decoder, and zone 0 holds `taken` words of the pool. -/
def mono : Frame := { frame0 with header := { frame0.header with map := [2] }, centreFold := -3, samples := [List.replicate 256 5] }
def thinning (st : DecoderState) (map : List Role) (taken : Nat) : State :=
  { busy with
    decoders := busy.decoders.set 0 { locked0 with state := st, ready := some mono }
    zones := #v[{ busy.zone 0 with allocation := taken }, { busy.zone 1 with lipsync := 200, allocation := 4, delay := 2 },
                { runs 2 2 (some 0) with map := some map }] }

/-- A ready frame of the map in force and one of another map with as many channels, its user RUNNING; no frame ready; a ready frame with another
channel count, its decoder LOCKED, in HOLD or in any state, with one user that restarts and one that does not, the pool taken as one likes; the
lip-sync asked for fits, and does not. -/
theorem witness_SpanBoundaryPlaysReadyFrame :
    ((readying.decoder 0).clock = true ∧ (readying.decoder 0).ready = some { frame0 with level := -9 } ∧
      (readying.decoder 0).header = some frame0.header ∧ frame0.header.map = ({ frame0 with level := -9 } : Frame).header.map) ∧
    ((turning.decoder 0).ready = some turned ∧ (turning.decoder 0).header = some frame0.header ∧ frame0.header.map ≠ turned.header.map ∧
      (turning.zone 1).decoder = some 0 ∧ (turning.zone 1).state = .running ∧
      ∀ z : ZoneId, ((turning.zone z).decoder == some 0 && (turning.zone z).state == .running) = true →
        (turning.zone z).map.map (·.length) = some turned.header.map.length) ∧
    ((busy.decoder 0).clock = true ∧ (busy.decoder 0).ready = none) ∧
    (∀ (st : DecoderState) (taken : Nat), let s := thinning st [1] taken
      (s.decoder 0).state = st ∧ (s.decoder 0).clock = true ∧ (s.decoder 0).ready = some mono ∧ (s.decoder 0).header = some frame0.header ∧
      frame0.header.map ≠ mono.header.map ∧ (s.zone 0).decoder = none ∧
      ((s.zone 2).decoder = some 0 ∧ (s.zone 2).state = .running ∧ (s.zone 2).map.map (·.length) = some mono.header.map.length) ∧
      ((s.zone 1).decoder = some 0 ∧ (s.zone 1).state = .running ∧ (s.zone 1).map.map (·.length) ≠ some mono.header.map.length ∧
        (s.zone 1).source = some 2 ∧ (s.slot 2).assigned = some { zone := 1, role := 0, dest := .line 2 } ∧
        (s.slot 0).assigned = some { zone := 0, role := 0, dest := .line 0 })) ∧
    (1 * ((min 250 (200 + 0) * 48000 + 500) / 1000) ≤ 172544 - (0 + 0) ∧ 172544 - (172542 + 0) < 1 * ((min 250 (200 + 0) * 48000 + 500) / 1000)) :=
  ⟨⟨rfl, rfl, rfl, rfl⟩, ⟨rfl, rfl, by decide, rfl, rfl, by decide⟩, ⟨rfl, rfl⟩,
    fun _ _ => ⟨rfl, rfl, rfl, rfl, by decide, rfl, ⟨rfl, rfl, rfl⟩, rfl, rfl, (by decide : (some 2 : Option Nat) ≠ some 1), rfl, rfl, rfl⟩,
    by decide⟩

theorem witness_LevelRounding : ((-192 : Int) ≤ -192 ∧ (-192 : Int) ≤ 24) ∧ ((-192 : Int) ≤ 24 ∧ (24 : Int) ≤ 24) := by decide

theorem witness_RenderArithmetic : 32 ≤ 32 ∧ (0 : Int) ≤ 8388607 := by decide

/-- A lip-sync of 200 ms on zone 0, the pool free, all but two words of it taken, and all of it taken. -/
def pooling (taken : Nat) : State :=
  let s := zoned 0 fun x => { x with lipsync := 200 }
  { s with zones := s.zones.set 1 { s.zone 1 with allocation := taken } }

/-- The lip-sync asked for fits and does not; a power-on with a PCM source; block boundaries with and without a lip-sync due. -/
theorem witness_PoolGrantsWhatFits :
    ((pooling 0).zone 0).source = some 0 ∧ ((pooling 0).zone 0).rate = some 2 ∧ ((pooling 0).zone 0).map = some [0, 1] ∧
    PoolBound (pooling 0) ∧ PoolBound (pooling 172542) ∧ PoolBound (pooling 172544) ∧
    0 + 2 * ((min 250 (200 + 0) * 48000 + 500) / 1000) ≤ 172544 ∧ 172544 < 172542 + 2 * ((min 250 (200 + 0) * 48000 + 500) / 1000) ∧
    (Sends (powering busy 0) 0x20 [byteOf (2 : ZoneId), 0] ∧
      let s := powering busy 0
      (s.zone 2).state = .standby ∧ (s.zone 2).source = some 0 ∧ (s.zone 2).decoder = none ∧ (s.source 0).enabled = true ∧
        (s.port (s.source 0).port).state = .locked ∧ (s.port (s.source 0).port).content = .pcm ∧ (s.port (s.source 0).port).rate = some 2) ∧
    (let s := zoned 0 fun x => { x with lipsync := 200, lipsyncDue := true }
     (s.zone 0).state = .running ∧ (s.zone 0).blockPos = some 32 ∧ (s.zone 0).decoder = none ∧ (s.zone 0).lipsyncDue = true) ∧
    (let s := zoned 1 fun x => { x with spanPos := 32 }
     (s.zone 1).state = .running ∧ (s.zone 1).blockPos = some 32 ∧ (s.zone 1).spanPos ≠ 256 ∧ (s.zone 1).lipsyncDue = false) :=
  ⟨rfl, rfl, rfl, by unfold PoolBound; decide, by unfold PoolBound; decide, by unfold PoolBound; decide, by decide, by decide,
    ⟨sends _ _ _ rfl rfl, by decide⟩, by decide, by decide⟩

/-- A zone whose layout has the given sizes beside FL and FR LARGE. -/
def laidOut (l : List (Role × Size)) : Zone :=
  { Zone.reset 0 with layout := l.foldl (fun v q => v.set q.1 q.2) (((Vector.replicate 12 Size.absent).set 0 .large).set 1 .large) }

/-- A stored matrix in force; none; an absent centre, back and top; upmix; an LFE with no SMALL role, and with FL SMALL; the two
entries to RUNNING, and the block boundary of a zone with and without a derivation due. -/
theorem witness_MatrixInForce :
    (let x := { laidOut [] with matrixMode := .custom, store := some { map := [0, 3, 11], rows := twoRows } }
     x.matrixMode = .custom ∧ x.store = some { map := [0, 3, 11], rows := twoRows }) ∧
    ((laidOut []).matrixMode ≠ .custom ∧ (laidOut []).upmix = false ∧ (laidOut []).layout[(0 : Role)] ≠ .absent ∧
      (laidOut []).layout[(1 : Role)] ≠ .absent ∧ ([11, 10, 6, 3, 2] : List Role)[4]? = some 2 ∧ (laidOut []).layout[(2 : Role)] = .absent) ∧
    (let x := laidOut [(4, .large)]; ([11, 10, 6, 3, 2] : List Role)[2]? = some 6 ∧ x.layout[(6 : Role)] = .absent ∧ x.layout[(4 : Role)] ≠ .absent) ∧
    (let x := { laidOut [(2, .small)] with upmix := true }; x.upmix = true ∧ x.matrixMode ≠ .custom ∧ x.layout[(2 : Role)] ≠ .absent) ∧
    (let x := laidOut [(3, .large)]; x.layout[(3 : Role)] ≠ .absent ∧ ∀ j : Role, j ≠ 3 → x.layout[j] ≠ .small) ∧
    (let x := laidOut [(0, .small), (3, .large)]; x.layout[(0 : Role)] = .small ∧ x.layout[(3 : Role)] ≠ .absent) ∧
    (let s := powering busy 0
     (s.source 0).enabled = true ∧ (s.port (s.source 0).port).state = .locked ∧ (s.port (s.source 0).port).content = .pcm) ∧
    (let s := powering busy 2
     (s.source 2).enabled = true ∧ (s.port (s.source 2).port).state = .locked ∧ (s.port (s.source 2).port).content = .packed ∧
      s.decoderOn (s.source 2).port = some 0 ∧ (s.decoder 0).state = .locked ∧ (s.decoder 0).header = some frame0.header ∧
      (s.decoder 0).metadata = some (frame0.metadata 0)) ∧
    (let s := zoned 0 fun x => { x with deriveDue := true }
     (s.zone 0).state = .running ∧ (s.zone 0).blockPos = some 32 ∧ (s.zone 0).decoder = none ∧ (s.zone 0).map = some [0, 1]) ∧
    (let s := zoned 1 fun x => { x with spanPos := 64 }
     (s.zone 1).blockPos = some 32 ∧ (s.zone 1).spanPos ≠ 256 ∧ (s.zone 1).map = some [0, 1] ∧ (s.zone 1).deriveDue = false) := by decide

/-- Absent back and top roles over an absent SL and SR; the bass of a SMALL centre and a SMALL SL. -/
theorem witness_MatrixInForce_folds :
    (([11, 7, 6] : List Role)[0]? = some 11 ∧ ([11, 7, 6] : List Role)[1]? = some 7 ∧ ([11, 7, 6] : List Role)[2]? = some 6 ∧
      (laidOut []).layout[(4 : Role)] = .absent ∧ (laidOut []).layout[(5 : Role)] = .absent) ∧
    (let x := laidOut [(2, .small), (3, .large), (4, .small)]
     x.matrixMode ≠ .custom ∧ x.layout[(3 : Role)] ≠ .absent ∧ x.layout[(4 : Role)] = .small ∧
      0 < ((deriveMatrix x [6, 2] (-6) (-6)).row 4).getD 0 0) := by decide

/-- Slots in each state the statement names, and their sections in use. -/
theorem witness_SlotSampleBounds :
    ((busy.slot 0).state = .active ∧ (busy.slot 0).activeSet = .bypass ∧ (busy.slot 0).delay = 0 ∧ (busy.slot 0).g = 32 ∧ (busy.slot 0).target = 32) ∧
    (({ busy.slot 0 with state := .shut, g := 31, target := 0 } : Slot).state = .shut ∧ 0 < 31) ∧
    (({ busy.slot 0 with activeSet := .low } : Slot).activeSet = .low ∧ (busy.zone 0).active.low = (busy.zone 0).active.low) ∧
    (({ busy.slot 0 with g := 31 } : Slot).g < 32) := by decide

/-- Neither the level stage nor the section in use saturates, at the greatest sum the level stage can give out unsaturated. -/
theorem witness_SlotSampleBounds_overflow :
    let a : Active := { (busy.zone 0).active with volume := 0, sourceTrim := 0, low := { b0 := 2 ^ 30, b1 := 0, b2 := 0, a1 := 0, a2 := 0 } }
    let x : Slot := { busy.slot 0 with activeSet := .low, activeTrim := 0, overflow := false }
    let acc : Int := (2 ^ 31 - 1) * 16384
    levelScale acc 0 = 2 ^ 31 - 1 ∧ (x.sample a acc 0).y1 = 2 ^ 31 - 1 ∧ (x.sample a acc 0).overflow = false := by decide

/-- A ramp on its way with a speaker delay and a section in use. -/
theorem witness_SlotSampleBounds_ramp :
    let x : Slot := { busy.slot 0 with activeSet := .low, delay := 2, line := [100, -320], g := 20 }
    x.state = .active ∧ x.activeSet ≠ .bypass ∧ (x.sample (busy.zone 0).active 0 0).g = 21 ∧
      (x.sample (busy.zone 0).active 0 0).word = -210 := by decide

/-- PCM in the last sample period of a block; a packed stream inside a block and waiting for its first; a ramp-out; lanes of a PRESENT module and
of an unknown one, destinations with a slot and without. -/
theorem witness_SamplePeriodOfZone :
    (let s := zoned 0 fun x => { x with blockPos := some 31 }
     (s.zone 0).state = .running ∧ (s.zone 0).decoder = none ∧ (s.zone 0).source = some 0 ∧ (s.zone 0).map = some [0, 1] ∧
      ([⟨24, 77⟩, ⟨16, 0xFFFF⟩] : List InputWord).length = 2 ∧ (s.zone 0).blockPos = some 31) ∧
    (let s := zoned 1 fun x => { x with blockPos := some 0, spanPos := 255 }
     (s.zone 1).state = .running ∧ (s.zone 1).decoder = some 0 ∧ (s.zone 1).map = some [0, 1] ∧ (s.zone 1).spanPos < 256 ∧ (s.zone 1).blockPos = some 0) ∧
    (let s := zoned 1 fun x => { x with blockPos := none, spanPos := 5 }; (s.zone 1).blockPos = none ∧ (s.zone 1).spanPos % 32 ≠ 0) ∧
    (let s := zoned 0 fun x => { x with blockPos := some 3, state := .idle, rampOut := true }
     (s.zone 0).state ≠ .running ∧ (s.zone 0).rampOut = true ∧ (s.zone 0).blockPos = some 3) ∧
    (busy.presentEntry 9 = none ∧ busy.presentEntry 5 = some (0, entry0) ∧ 1 ≤ 2 ∧ 2 ≤ entry0.faults.length) ∧
    ((∀ i a, (busy.slot i).assigned = some a → a.dest ≠ .line 5) ∧
      (busy.slot 1).assigned = some { zone := 0, role := 1, dest := .amp 5 1 }) := by decide

/-- In `busy` every destination has one slot and every lane one zone. -/
theorem witness_SamplePeriodOfZone_lanes : LanesRight busy := by
  have h : ∀ i j : SlotId, i ≠ j → ∀ a ∈ (busy.slot i).assigned, ∀ b ∈ (busy.slot j).assigned,
      a.dest ≠ b.dest ∧ (a.dest.lane = b.dest.lane → a.zone = b.zone) := by decide
  exact fun i j a b hij ha hb => h i j hij a ha b hb

/-- `s` with the ramps of the slots of zone 0 at 0. -/
def rampedOut (s : State) : State := { s with slots := (s.slots.set 0 { s.slot 0 with g := 0 }).set 1 { s.slot 1 with g := 0 } }

/-- A block of PCM, the first block of a packed stream, a block of a ramp-out, the end of one; a section that changes, one whose set is new, one kept. -/
theorem witness_BlockBoundaryAndRampOut :
    ((busy.zone 0).state = .running ∧ (busy.zone 0).blockPos = some 32 ∧ (busy.zone 0).decoder = none) ∧
    (let s := zoned 1 fun x => { x with blockPos := none, spanPos := 224 }
     (s.zone 1).state = .running ∧ (s.zone 1).blockPos = none ∧ (s.zone 1).decoder ≠ none ∧ (s.zone 1).spanPos % 32 = 0 ∧ (s.zone 1).spanPos < 256) ∧
    (let s := zoned 0 fun x => { x with state := .idle, rampOut := true }
     (s.zone 0).state ≠ .running ∧ (s.zone 0).rampOut = true ∧ (s.zone 0).blockPos = some 32 ∧
      ∀ i : SlotId, ((rampedOut s).slot i).assigned.any (fun a => a.zone == 0) = true → ((rampedOut s).slot i).g = 0) ∧
    (let x := { busy.zone 0 with layout := (busy.zone 0).layout.set 0 .small, highDue := true }
     x.layout[(0 : Role)] = .small ∧ XoverUse.high ≠ (busy.slot 0).activeSet ∧ x.highDue = true) ∧
    ((busy.zone 0).layout[(1 : Role)] = .large ∧ XoverUse.bypass = (busy.slot 1).activeSet) := by decide

/-- Zone 0 at a block boundary at which everything waits, beside an allocation of `taken` words of zone 1. -/
def boundary (taken : Nat) : State :=
  let s := zoned 0 fun x => { x with lipsync := 250, lipsyncDue := true, deriveDue := true, highDue := true, lowDue := true }
  { s with
    zones := s.zones.set 1 { s.zone 1 with allocation := taken }
    slots := s.slots.set 0 { s.slot 0 with distance := 1000, distanceDue := true } }

/-- What waits at a boundary: a lip-sync that fits the pool exactly and one that does not, a derivation, a distance that changes the delay, beside a
slot without the mark; a zone whose map is unknown; a ramp-out whose one slot is missing nothing and whose other is held muted. -/
theorem witness_BlockBoundaryAndRampOut_waits :
    (let s := boundary (172544 - 2 * 12000)
     (s.zone 0).state = .running ∧ (s.zone 0).blockPos = some 32 ∧ (s.zone 0).decoder = none ∧ (s.zone 0).lipsyncDue = true ∧
      (s.zone 0).deriveDue = true ∧ (s.zone 0).source = some 0 ∧ (s.zone 0).rate = some 2 ∧ (s.zone 0).map = some [0, 1] ∧
      (min 250 ((s.zone 0).lipsync + (s.source 0).offset) * Config.rateHz 2 + 500) / 1000 = 12000 ∧
      172544 - ((allZones.filter (· ≠ 0)).map fun o => (s.zone o).allocation).sum = 2 * 12000 ∧
      (s.slot 0).distanceDue = true ∧ (1000 * Config.rateHz 2 + 17150) / 34300 ≠ (s.slot 0).delay ∧ (s.slot 1).distanceDue = false) ∧
    ¬ 2 * 12000 ≤ 172544 - ((allZones.filter (· ≠ 0)).map fun o => ((boundary (172544 - 23999)).zone o).allocation).sum ∧
    (let s := zoned 0 fun x => { x with map := none, deriveDue := true }
     (s.zone 0).state = .running ∧ (s.zone 0).blockPos = some 32 ∧ (s.zone 0).decoder = none ∧ (s.zone 0).map = none) ∧
    (let muted : ProtRecord := { newRecord with state := .shut, cause := .temp, muted := true }
     let s := rampedOut { zoned 0 (fun x => { x with state := .idle, rampOut := true }) with
       prot := busy.prot.set 0 (some { supplyLow := false, temperature := none, muteMask := 1, records := [muted, newRecord] }) }
     (s.zone 0).state ≠ .running ∧ (s.zone 0).rampOut = true ∧
      (∀ i : SlotId, (s.slot i).assigned.any (fun a => a.zone == 0) = true → (s.slot i).g = 0) ∧
      s.missing (.amp 5 1) = none ∧ (s.protOf (.amp 5 1)).1 = true ∧ (s.protOf (.line 0)).1 = false) := by decide

/-! ## Witnesses: slots, link, protection -/

/-- SLOT.ASSIGN of slot `i` to zone `z`, role `r`: to line output `l`, and to channel `ch` of module 5. -/
def toLine (i z r l : Byte) : List Byte := i :: z :: r :: 1 :: ([0, 0, 0, 0, 0, 5] ++ [0, l])
def toAmp (i z r ch : Byte) : List Byte := i :: z :: r :: 0 :: ([0, 0, 0, 0, 0, 5] ++ [ch, 0])

/-- `s` with the notices of kind `k` masked. -/
def masking (k : NoticeKind) (s : State) : State := { s with control := { s.control with enabled := s.control.enabled.set k.number false } }

/-- A destination of another slot; a free line and a channel, the enable mask of module 5 before and after; an unassigned slot and an
assigned one released; the link IDLE and in a window. -/
theorem witness_SlotAssignAndRelease :
    (Sends (sent busy 0x40 (toLine 5 2 3 0)) 0x40 (toLine 5 2 3 0) ∧ (5 : SlotId) ≠ 0 ∧
      (busy.slot 0).assigned = some { zone := 0, role := 0, dest := .line 0 }) ∧
    (Sends (sent busy 0x40 (toLine 5 2 3 5)) 0x40 (toLine 5 2 3 5) ∧
      ¬ ∃ j : SlotId, ∃ a ∈ (busy.slot j).assigned, a.dest = .line 5 ∨ (a.dest.lane = (Destination.line 5).lane ∧ a.zone ≠ 2)) ∧
    (Sends (sent busy 0x40 (toAmp 5 0 3 2)) 0x40 (toAmp 5 0 3 2) ∧ Destination.amp (idField (toAmp 5 0 3 2) 4) 2 = .amp 5 2 ∧
      busy.entryOf 5 = some 0 ∧ busy.entry 0 = some entry0 ∧ 2 ≤ entry0.faults.length ∧
      ¬ ∃ j : SlotId, ∃ a ∈ (busy.slot j).assigned, a.dest = .amp 5 2 ∨ (a.dest.lane = (Destination.amp 5 2).lane ∧ a.zone ≠ 0)) ∧
    ((busy.zone 0).rate = some 2 ∧ busy.ampRates = []) ∧
    (busy.link.exchange = .idle ∧ (linked fun l => { l with exchange := .window }).link.exchange ≠ .idle ∧ (busy.presentEntry 5).isSome = true ∧
      busy.enableMask 5 = 1 ∧
      ({ busy with slots := busy.slots.set 5 (slotOn 0 3 (.amp 5 2)) } : State).enableMask 5 = 3) ∧
    (Sends (sent busy 0x41 [9]) 0x41 [byteOf (9 : SlotId)] ∧ (busy.slot 9).assigned = none) ∧
    (Sends (sent busy 0x41 [1]) 0x41 [byteOf (1 : SlotId)] ∧ (busy.slot 1).assigned = some { zone := 0, role := 1, dest := .amp 5 1 }) ∧
    (Sends (sent (masking .slot busy) 0x41 [1]) 0x41 [1] ∧ (masking .slot busy).control.enabled[NoticeKind.slot.number] = false) :=
  ⟨⟨sends _ _ _ rfl rfl, by decide, rfl⟩, ⟨sends _ _ _ rfl rfl, by decide⟩, ⟨sends _ _ _ rfl rfl, by decide, by decide, rfl, by decide, by decide⟩,
    by decide, ⟨rfl, by decide, rfl, by decide, by decide⟩, ⟨sends _ _ _ rfl rfl, rfl⟩, ⟨sends _ _ _ rfl rfl, rfl⟩,
    ⟨sends _ _ _ rfl rfl, rfl⟩⟩

/-- Each field of SLOT.ASSIGN one above its range, and channel 0; channel 3 of a module of two channels; SLOT.RELEASE of slot 16. -/
theorem witness_SlotAssignAndRelease_badValue :
    (Sends (sent busy 0x40 (toLine 16 0 0 5)) 0x40 (toLine 16 0 0 5) ∧ 15 < (16 : Byte).toNat) ∧
    (Sends (sent busy 0x40 (toLine 5 3 0 5)) 0x40 (toLine 5 3 0 5) ∧ 2 < (3 : Byte).toNat) ∧
    (Sends (sent busy 0x40 (toLine 5 0 12 5)) 0x40 (toLine 5 0 12 5) ∧ 11 < (12 : Byte).toNat) ∧
    (Sends (sent busy 0x40 [5, 0, 0, 2, 0, 0, 0, 0, 0, 5, 1, 0]) 0x40 (5 :: 0 :: 0 :: 2 :: ([0, 0, 0, 0, 0, 5] ++ [1, 0])) ∧ 1 < (2 : Byte).toNat) ∧
    (Sends (sent busy 0x40 (toAmp 5 0 0 0)) 0x40 (toAmp 5 0 0 0) ∧ (0 : Byte).toNat = 0) ∧
    (Sends (sent busy 0x40 (toAmp 5 0 0 9)) 0x40 (toAmp 5 0 0 9) ∧ 8 < (9 : Byte).toNat) ∧
    (Sends (sent busy 0x40 (toAmp 5 0 0 3)) 0x40 (toAmp 5 0 0 3) ∧ busy.entryOf (idField (toAmp 5 0 0 3) 4) = some 0 ∧
      busy.entry 0 = some entry0 ∧ entry0.faults.length < (3 : Byte).toNat) ∧
    (Sends (sent busy 0x40 (toLine 5 0 0 6)) 0x40 (toLine 5 0 0 6) ∧ 5 < (6 : Byte).toNat) ∧
    Sends (sent busy 0x41 [16]) 0x41 [16] :=
  ⟨⟨sends _ _ _ rfl rfl, by decide⟩, ⟨sends _ _ _ rfl rfl, by decide⟩, ⟨sends _ _ _ rfl rfl, by decide⟩, ⟨sends _ _ _ rfl rfl, by decide⟩,
    ⟨sends _ _ _ rfl rfl, by decide⟩, ⟨sends _ _ _ rfl rfl, by decide⟩, ⟨sends _ _ _ rfl rfl, by decide, rfl, by decide⟩,
    ⟨sends _ _ _ rfl rfl, by decide⟩, sends _ _ _ rfl rfl⟩

/-- The link with an enumeration of an origin in its first round. -/
def enumerating (o : Origin) (l : Link) : Link :=
  { l with exchange := .call, enumRun := some { origin := o, rounds := 1, assigned := 2, failed := 1 } }

/-- A host's enumeration kept beside a tuner operation. -/
def hostEnum : List LongOp := [{ kind := .tuner, command := 0x63, tag := 78 }, { kind := .enumeration, command := 0x51, tag := 77 }]

theorem witness_LinkCommands :
    (Sends (sent busy 0x50 [2]) 0x50 [2] ∧ 1 < (2 : Byte).toNat) ∧ (Sends (sent busy 0x50 [1]) 0x50 [1] ∧ busy.link.exchange ≠ .held) ∧
    (Sends (sent ready 0x50 [0]) 0x50 [0] ∧ ready.link.exchange = .held) ∧
    (Sends (sent ready 0x51 []) 0x51 [] ∧ ready.link.exchange = .held) ∧
    (Sends (sent (linked (enumerating .join)) 0x51 []) 0x51 [] ∧ (linked (enumerating .join)).link.enumPending = none ∧
      (linked (enumerating .join)).link.enumRun = some { origin := .join, rounds := 1, assigned := 2, failed := 1 } ∧
      (linked (enumerating .join)).link.exchange ≠ .idle) ∧
    (Sends (sent busy 0x51 []) 0x51 [] ∧ busy.link.exchange = .idle ∧ busy.link.enumPending = none ∧ busy.link.enumRun = none) ∧
    (Sends (sent ready 0x52 []) 0x52 [] ∧ ready.link.exchange = .held) ∧
    (let s := linked (enumerating .host); let t : State := { s with control := { s.control with longOps := hostEnum } }
     Sends (sent t 0x52 []) 0x52 [] ∧ t.link.exchange ≠ .held ∧ t.control.longOps = [hostEnum[0]] ++ hostEnum[1] :: [] ∧
      hostEnum[1].kind = .enumeration ∧ (∀ x ∈ [hostEnum[0]], x.kind ≠ .enumeration) ∧
      (t.slot 1).assigned = some { zone := 0, role := 1, dest := .amp 5 1 } ∧ (t.slot 0).assigned = some { zone := 0, role := 0, dest := .line 0 }) ∧
    (Sends (sent busy 0x52 []) 0x52 [] ∧ (∀ o ∈ busy.control.longOps, o.kind ≠ .enumeration) ∧ busy.protModule 0 ≠ none) ∧
    (let s := masking .link (masking .protect busy)
     Sends (sent s 0x52 []) 0x52 [] ∧ s.control.enabled[NoticeKind.link.number] = false ∧ s.control.enabled[NoticeKind.protect.number] = false ∧
      s.link.exchange ≠ .held ∧ s.entry 0 ≠ none) ∧
    (let s := masking .protect { busy with prot := Vector.replicate 6 none }
     Sends (sent s 0x52 []) 0x52 [] ∧ s.control.enabled[NoticeKind.protect.number] = false ∧ ∀ k, s.protModule k = none) :=
  ⟨⟨sends _ _ _ rfl rfl, by decide⟩, ⟨sends _ _ _ rfl rfl, by decide⟩, ⟨sends _ _ _ rfl rfl, rfl⟩, ⟨sends _ _ _ rfl rfl, rfl⟩,
    ⟨sends _ _ _ rfl rfl, by decide⟩, ⟨sends _ _ _ rfl rfl, by decide⟩, ⟨sends _ _ _ rfl rfl, rfl⟩, ⟨sends _ _ _ rfl rfl, by decide⟩,
    ⟨sends _ _ _ rfl rfl, by decide⟩, ⟨sends _ _ _ rfl rfl, by decide⟩, ⟨sends _ _ _ rfl rfl, by decide⟩⟩

/-- LINK.RESET in `busy`: slot 1 on an amplifier channel plays with a reduction, slot 3 on one is SILENT, slot 0 is on a line output, slot 9 on none. -/
theorem witness_LinkCommands_slots :
    let silent : Slot := { slotOn 0 3 (.amp 5 2) with state := .silent, reduction := 6 }
    let s : State := { busy with slots := (busy.slots.set 1 { busy.slot 1 with reduction := 6, clips := 2, overflow := true }).set 3 silent }
    Sends (sent s 0x52 []) 0x52 [] ∧ s.link.exchange ≠ .held ∧
    (s.slot 1).assigned = some { zone := 0, role := 1, dest := .amp 5 1 } ∧ (s.slot 1).state ≠ .silent ∧
    (s.slot 3).assigned = some { zone := 0, role := 3, dest := .amp 5 2 } ∧ (s.slot 3).state = .silent ∧
    (s.slot 0).assigned = some { zone := 0, role := 0, dest := .line 0 } ∧ (s.slot 9).assigned = none :=
  ⟨sends _ _ _ rfl rfl, by decide⟩

/-- A transaction of module 5 in flight, with a miss count. -/
def carrying (k : TxnKind) (again : Bool) (misses : Nat) : State :=
  linked fun l => { l with
    exchange := .txn { identity := 5, kind := k, payload := 3 } again, table := l.table.set 0 (some { entry0 with misses := misses }) }

/-- `carrying` is in flight on a PRESENT module. -/
theorem witness_carrying (k : TxnKind) (again : Bool) (misses : Nat) :
    Calm (carrying k again misses) ∧ (carrying k again misses).link.exchange = .txn { identity := 5, kind := k, payload := 3 } again ∧
    (carrying k again misses).presentEntry 5 = some (0, { entry0 with misses := misses }) := ⟨rfl, rfl, rfl⟩

/-- A write first and again, with 1 miss and with 2, with a slot and a protection record of the module. -/
theorem witness_TransactionOutcomes :
    (TxnKind.writeEnable ≠ .readStatus ∧ TxnKind.writeEnable ≠ .readDesc) ∧ ({ entry0 with misses := 1 } : Entry).misses < 2 ∧
    2 ≤ ({ entry0 with misses := 2 } : Entry).misses ∧
    ((carrying .writeEnable true 2).slot 1).assigned = some { zone := 0, role := 1, dest := .amp 5 1 } ∧
    ((carrying .writeEnable true 2).protModule 0).isSome = true := by decide

/-- A third miss of module 5 while transactions of it and of another module wait and no mark is pending, and while one is. -/
theorem witness_TransactionOutcomes_waiting :
    let s := carrying .writeEnable true 2
    let other : Txn := { identity := 6, kind := .readStatus, payload := 0 }
    let waiting : State := { s with link := { s.link with
      urgent := [{ other with kind := .writeMute }, { other with identity := 5, kind := .writeMute }], ordinary := [{ other with identity := 5 }, other] } }
    let marked : State := { waiting with link := { waiting.link with marks := [{ other with kind := .readDesc }] } }
    (Calm waiting ∧ waiting.link.exchange = .txn { identity := 5, kind := .writeEnable, payload := 3 } true ∧
      waiting.presentEntry 5 = some (0, { entry0 with misses := 2 }) ∧ waiting.link.marks = []) ∧
    (Calm marked ∧ marked.link.exchange = .txn { identity := 5, kind := .writeEnable, payload := 3 } true ∧
      marked.presentEntry 5 = some (0, { entry0 with misses := 2 }) ∧ marked.link.marks ≠ []) :=
  ⟨⟨rfl, rfl, rfl, rfl⟩, ⟨rfl, rfl, rfl, by decide⟩⟩

theorem witness_ReadsPollsAndRecovery :
    ((carrying .readStatus false 1).presentEntry 5 = some (0, { entry0 with misses := 1 }) ∧ ([5, 1] : List Byte).length = entry0.faults.length ∧
      (3 : Byte).getLsbD 1 = true) ∧
    ((carrying .readDesc false 1).presentEntry 5 = some (0, { entry0 with misses := 1 }) ∧ 1 ≤ (1 : Byte).toNat ∧ (8 : Byte).toNat ≤ 8 ∧
      (0 : Byte).toNat = 0 ∧ 8 < (9 : Byte).toNat) ∧
    (let s := linked fun l => { l with exchange := .release 5 }; Calm s ∧ s.link.exchange = .release 5) ∧
    (let s := linked fun l => { l with exchange := .recovery (some 5) false, stuck := true }; Calm s ∧ s.link.exchange = .recovery (some 5) false) ∧
    (let s := linked fun l => { l with table := l.table.set 0 (some { entry0 with presence := .absent }) }
     s.entry 0 = some { entry0 with presence := .absent }) ∧
    (busy.entry 0 = some entry0 ∧ busy.presentEntry entry0.identity = some (0, entry0) ∧ busy.link.exchange = .idle ∧
      LinkRested busy.link ∧ busy.link.marks = []) ∧
    ((carrying .writeMute false 0).link.exchange ≠ .idle ∧ (carrying .writeMute false 0).entry 0 = some entry0) :=
  ⟨by decide, by decide, ⟨rfl, rfl⟩, ⟨rfl, rfl⟩, rfl, ⟨rfl, rfl, rfl, ⟨rfl, rfl, rfl, rfl⟩, rfl⟩, by decide⟩

/-- A status with a fault new on channel 1 and the supply bit new, a count that cuts a muted record and one that adds, each with records held and
with none; slot 1 alone on channel 1. -/
theorem witness_ReadsPolls_changes :
    (let s := carrying .readStatus false 0
     s.protModule 0 ≠ none ∧ entry0.supplyLow ≠ (1 : Byte).getLsbD 0 ∧ (entry0.faults[0]?).any (·.dcFault) = false ∧ (9 : Byte).getLsbD 3 = true ∧
      (s.slot 1).assigned = some { zone := 0, role := 1, dest := .amp 5 1 } ∧
      ∀ j : SlotId, ∀ c ∈ (s.slot j).assigned, c.dest = .amp 5 1 → j = 1) ∧
    (let muted : ProtRecord := { newRecord with state := .shut, cause := .temp, muted := true }
     let m : ProtModule := { supplyLow := false, temperature := none, muteMask := 2, records := [newRecord, muted] }
     let s := { carrying .readDesc false 0 with prot := Vector.replicate 6 (some m) }
     s.protModule 0 = some m ∧ (1 : Byte).toNat ≠ entry0.faults.length ∧ (8 : Byte).toNat ≠ entry0.faults.length ∧ (2 : Byte).toNat = entry0.faults.length ∧
      (1 : Byte).toNat < 2 ∧ 2 ≤ 8 ∧ MutedIn m.records 2 ∧ (s.slot 1).reduction = 0) ∧
    ({ carrying .readDesc false 0 with prot := Vector.replicate 6 none } : State).protModule 0 = none := by
  refine ⟨by decide, ?_, rfl⟩
  unfold MutedIn
  decide

/-- The link in a request window, and in a request exchange with address 1. -/
def window (f : Link → Link) : State := linked fun l => f { l with exchange := .window }
def requesting (f : Link → Link) : State := linked fun l => f { l with exchange := .request 1 }

/-- Two waiting transactions of module 5. -/
def mute5 : Txn := { identity := 5, kind := .writeMute, payload := 3 }
def read5 : Txn := { identity := 5, kind := .readStatus, payload := 0 }

/-- Every round of the arbiter; a JOIN in a round, refused and taken; requests that are discarded; a FAULT of channel 1. -/
theorem witness_WindowsAndRequests :
    (Calm (window id) ∧ (window id).link.exchange = .window ∧ ([5, 2, 7] : List (BitVec 3)) ≠ []) ∧
    (window (enumerating .join)).link.enumRun ≠ none ∧
    ((window fun l => { l with enumPending := some .host }).link.enumPending = some .host ∧ Origin.host ≠ .join) ∧
    ((window fun l => { l with urgent := [mute5] }).link.urgent = mute5 :: [] ∧ (window id).link.enumPending = none) ∧
    ((window fun l => { l with ordinary := [read5] }).link.ordinary = read5 :: [] ∧ (window fun l => { l with ordinary := [read5] }).link.marks = []) ∧
    ((window fun l => { l with joinPending := true }).link.joinPending = true ∧ (window id).link.ordinary = []) ∧
    (Calm (requesting id) ∧ (requesting id).link.exchange = .request 1 ∧ LinkRested (requesting id).link ∧ (requesting id).link.enumRun = none) ∧
    ((requesting fun l => { l with accept := true }).link.accept = true ∧ (requesting fun l => { l with accept := false }).link.accept = false) ∧
    ((3 : Byte) ≠ 1 ∧ (3 : Byte) ≠ 2 ∧ ∀ k : EntryId, ∀ e ∈ (requesting id).entry k, e.presence = .present → e.address ≠ (2 : BitVec 3).toNat) ∧
    ((0 : Byte) = 0 ∧ 7 < (8 : Byte).toNat ∧ (3 : Byte) ≠ 5 ∧ (3 : Byte) ≠ 6 ∧ ∀ ch, ch < 2 → (0xFC : Byte).getLsbD ch = false) ∧
    ((requesting id).entryAt (1 : BitVec 3).toNat = some (0, entry0) ∧ 1 ≤ (7 : Byte).toNat ∧ (7 : Byte).toNat ≤ 7 ∧
      (1 ≤ 2 ∧ 2 ≤ entry0.faults.length ∧ (2 : Byte).getLsbD (2 - 1) = true)) :=
  ⟨⟨rfl, rfl, by decide⟩, by decide, by decide, by decide, by decide, by decide, ⟨rfl, rfl, ⟨rfl, rfl, rfl, rfl⟩, rfl⟩, by decide, by decide, by decide, by decide⟩

/-- The ordinary queue full, with marks of module 6 at address 2 and of module 5 at address 1 behind it: the WRITE_ENABLE of module 5 is promoted,
before the READ_DESC of the same module and the CLEAR_FAULT of the higher address. -/
theorem witness_WindowsAndRequests_promotion :
    let y : Txn := { identity := 5, kind := .writeEnable, payload := 3 }
    let s := window fun l => { l with
      table := l.table.set 1 (some { entry0 with identity := 6, address := 2 })
      ordinary := List.replicate 16 read5, marks := [{ identity := 6, kind := .clearFault, payload := 1 }, { y with kind := .readDesc }, y] }
    let address := fun (m : Txn) => (s.presentEntry m.identity).elim 0 fun q => q.2.address
    let order := fun (m : Txn) => [TxnKind.clearFault, .writeEnable, .readDesc, .readStatus].idxOf m.kind
    (Calm s ∧ s.link.exchange = .window ∧ s.link.enumRun = none ∧ s.link.enumPending = none ∧ s.link.urgent = []) ∧
    (s.link.ordinary = read5 :: List.replicate 15 read5 ∧ s.link.ordinary.length = 16 ∧ y ∈ s.link.marks) ∧
    (∀ m ∈ s.link.marks, s.presentEntry m.identity ≠ none) ∧
    ∀ m ∈ s.link.marks, m ≠ y → address y < address m ∨ (address y = address m ∧ order y < order m) := by
  refine ⟨⟨rfl, rfl, rfl, rfl, rfl⟩, ?_⟩
  decide

/-- An enumeration of an origin with `n` rounds behind it, in an exchange. -/
def round (e : Exchange) (o : Origin) (n : Nat) (f : Link → Link := id) : State :=
  let s := linked fun l => f { l with exchange := e, enumRun := some { origin := o, rounds := n, assigned := 2, failed := 1 } }
  { s with control := { s.control with longOps := hostEnum } }

/-- The module table full of ABSENT modules; module 5 ABSENT. -/
def fullTable (l : Link) : Link :=
  { l with table := #v[some { entry0 with identity := 20, presence := .absent }, some { entry0 with identity := 21, presence := .absent },
      some { entry0 with identity := 22, presence := .absent }, some { entry0 with identity := 23, presence := .absent },
      some { entry0 with identity := 24, presence := .absent }, some { entry0 with identity := 25, presence := .absent }] }
def absent5 (l : Link) : Link := { l with table := l.table.set 0 (some { entry0 with presence := .absent }) }

def winner9 : Winner := { identity := 9, address := 2, entry := 1 }

/-- All ones; a known module whose address is free, and taken; a new one; a full table; ASSIGN and READ_DESC, first and again, in a JOIN and
in the eighth round; a stall in each exchange of a round, and the recovery after it. -/
theorem witness_RoundsAdmitModules :
    ((round .call .host 1).link.enumRun = some { origin := .host, rounds := 1, assigned := 2, failed := 1 } ∧ (round .call .host 1).link.exchange = .call ∧
      (round .call .host 1).control.longOps = [hostEnum[0]] ++ hostEnum[1] :: [] ∧ hostEnum[1].kind = .enumeration) ∧
    ((5 : Identity) ≠ BitVec.allOnes 48 ∧ Calm (round .call .host 1 absent5) ∧ (round .call .host 1 absent5).entryOf 5 = some 0 ∧
      (round .call .host 1 absent5).entry 0 = some { entry0 with presence := .absent } ∧
      ∀ k : EntryId, ∀ e ∈ (round .call .host 1 absent5).entry k, e.presence = .present → e.address ≠ 1) ∧
    ((round .call .host 1).entryOf 5 = some 0 ∧ (round .call .host 1).entry 0 = some entry0 ∧ entry0.presence = .present ∧ entry0.address = 1 ∧
      (∀ k : EntryId, ∀ e ∈ (round .call .host 1).entry k, e.presence = .present → e.address ≠ 2)) ∧
    ((round .call .host 1).entryOf 9 = none ∧ (round .call .host 1).entry 1 = none ∧ ∀ j : EntryId, j < 1 → (round .call .host 1).entry j ≠ none) ∧
    ((round .call .host 1 fullTable).entryOf 9 = none ∧ ∀ k : EntryId, (round .call .host 1 fullTable).entry k ≠ none) ∧
    ((round (.assign winner9 false) .join 0).link.exchange = .assign winner9 false ∧ (round (.assign winner9 true) .host 7).link.exchange = .assign winner9 true ∧
      8 ≤ 7 + 1) ∧
    ((round (.desc winner9 false) .host 1).link.exchange = .desc winner9 false ∧ 1 ≤ (8 : Byte).toNat ∧ (8 : Byte).toNat ≤ 8 ∧ (0 : Byte).toNat = 0 ∧
      (round (.desc winner9 true) .join 0).link.exchange = .desc winner9 true) ∧
    (let s := round (.recovery none true) .host 1 fun l => { l with stuck := true }
     Calm s ∧ s.link.exchange = .recovery none true ∧ s.link.enumRun ≠ none) :=
  ⟨by decide, ⟨by decide, rfl, by decide, rfl, by decide⟩, by decide, by decide, by decide, by decide, by decide, ⟨rfl, by decide⟩⟩

/-- Module 5 with two records, its link in a request exchange with its address. -/
def guarded (l : List ProtRecord) : State :=
  let s := requesting id
  { s with now := 65000, prot := s.prot.set 0 (some { supplyLow := false, temperature := none, muteMask := 0, records := l }) }

/-- A LATCHED record, and one RECOVERING since 9000. -/
def latched : ProtRecord := { ProtRecord.fresh with state := .latched, cause := .dc, muted := true, count := 3 }
def recovering : ProtRecord := { ProtRecord.fresh with state := .recovering, cause := .temp, muted := true, reduction := 12, holdOff := some 9000 }

/-- Channel 1 of module 5, which feeds slot 1 alone, with each kind of fault; each state of a record stands in the list. -/
theorem witness_ProtectionRecordTable :
    (guarded [.fresh, recovering]).link.exchange = .request 1 ∧ (guarded [.fresh, latched]).entryAt (1 : BitVec 3).toNat = some (0, entry0) ∧
    (guarded [.fresh, latched]).entryOf entry0.identity = some 0 ∧
    (guarded [.fresh, latched]).protModule 0 = some { supplyLow := false, temperature := none, muteMask := 0, records := [.fresh, latched] } ∧
    (1 ≤ (1 : Byte).toNat ∧ (7 : Byte).toNat ≤ 7 ∧ (1 : Byte).getLsbD (1 - 1) = true ∧ 1 ≤ entry0.faults.length) ∧
    ((guarded []).slot 1).assigned = some { zone := 0, role := 1, dest := .amp entry0.identity 1 } ∧
    (∀ j : SlotId, ∀ c ∈ ((guarded []).slot j).assigned, c.dest = .amp entry0.identity 1 → j = 1) := by decide

/-- PROT.RESET of channel `ch` of module 5. -/
def resetCh (ch : Byte) : List Byte := [0, 0, 0, 0, 0, 5] ++ [ch]

/-- Channel 0, channel 3 without a record, channel 2 that is not LATCHED, channel 1 that is, of a PRESENT and of an ABSENT module; a hold-off. -/
theorem witness_ProtResetAndHoldOff :
    (let s := guarded [latched, recovering]
     Sends (sent s 0x58 (resetCh 0)) 0x58 (resetCh 0) ∧ Sends (sent s 0x58 (resetCh 3)) 0x58 (resetCh 3) ∧
      Sends (sent s 0x58 (resetCh 2)) 0x58 (resetCh 2) ∧ Sends (sent s 0x58 (resetCh 1)) 0x58 (resetCh 1) ∧
      s.entryOf (idField (resetCh 1) 0) = some 0 ∧ s.entry 0 = some entry0 ∧ entry0.presence = .present ∧
      s.protModule 0 = some { supplyLow := false, temperature := none, muteMask := 0, records := [latched, recovering] } ∧
      ([latched, recovering] : List ProtRecord)[3 - 1]? = none ∧ ([latched, recovering] : List ProtRecord)[2 - 1]? = some recovering ∧
      recovering.state ≠ .latched ∧ ([latched, recovering] : List ProtRecord)[1 - 1]? = some latched ∧ latched.state = .latched ∧ latched.muted = true ∧
      recovering.holdOff = some 9000) ∧
    (let s := linked absent5; s.entry 0 = some { entry0 with presence := .absent } ∧ (s.protModule 0).isSome = true) :=
  ⟨⟨sends _ _ _ rfl rfl, sends _ _ _ rfl rfl, sends _ _ _ rfl rfl, sends _ _ _ rfl rfl, by decide⟩, by decide⟩

/-- A round that admits module 5 again over records in SHUT by LINK and LATCHED, and module 9 without records; a slot on each. -/
theorem witness_RoundsAdmit_present :
    (let lost : ProtRecord := { newRecord with state := .shut, cause := .link, muted := true, reduction := 12 }
     let s := { round (.desc { identity := 5, address := 1, entry := 0 } false) .host 1 absent5 with
       prot := (Vector.replicate 6 none).set 0 (some { supplyLow := true, temperature := some 60, muteMask := 3, records := [lost, latched] }) }
     TableRight s ∧ s.protModule 0 ≠ none ∧ (s.slot 1).assigned = some { zone := 0, role := 1, dest := .amp 5 1 } ∧
      ∀ j : SlotId, ∀ c ∈ (s.slot j).assigned, c.dest = .amp 5 1 → j = 1) ∧
    (let s := { round (.desc winner9 false) .host 1 with slots := busy.slots.set 3 (slotOn 1 0 (.amp 9 8)) }
     TableRight s ∧ s.protModule 1 = none ∧ (s.slot 3).assigned = some { zone := 1, role := 0, dest := .amp 9 8 } ∧ (s.slot 3).reduction = 0 ∧
      ∀ j : SlotId, ∀ c ∈ (s.slot j).assigned, c.dest = .amp 9 8 → j = 3) := by
  have right : ∀ s : State, (∀ j k : EntryId, j ≠ k → ∀ d ∈ s.entry j, ∀ e ∈ s.entry k,
        d.identity ≠ e.identity ∧ (d.presence = .present → e.presence = .present → d.address ≠ e.address)) →
      (∀ k : EntryId, ∀ e ∈ s.entry k, 1 ≤ e.address ∧ e.address ≤ 6) →
      (∀ w ∈ winner s.link.exchange, 1 ≤ w.address ∧ w.address ≤ 6 ∧
        ∀ k : EntryId, k ≠ w.entry → ∀ e ∈ s.entry k, e.identity ≠ w.identity ∧ (e.presence = .present → e.address ≠ w.address)) → TableRight s :=
    fun s apart bounds won => ⟨fun j k d e hjk hd he => apart j k hjk d hd e he, fun k e he => bounds k e he,
      fun w hw => ⟨(won w hw).1, (won w hw).2.1, fun k e hk he => (won w hw).2.2 k hk e he⟩⟩
  exact ⟨⟨right _ (by decide) (by decide) (by decide), by decide⟩, ⟨right _ (by decide) (by decide) (by decide), by decide⟩⟩

/-- A muted channel that enters another state: RECOVERING to SHUT by TEMP_SHUT, SHUT to LATCHED by DC_FAULT. -/
theorem witness_ProtectionRecord_mutedAlready :
    (guarded [recovering, latched]).protModule 0 = some { supplyLow := false, temperature := none, muteMask := 0, records := [recovering, latched] } ∧
    recovering.muted = true ∧ (recovering.apply 65000 .tempShut).state = .shut ∧ (recovering.apply 65000 .tempShut).muted = true ∧
    (({ recovering with state := .shut, holdOff := none } : ProtRecord).apply 65000 .dcFault).state = .latched := by decide

/-! ## Witnesses: tuner, station memory, station data, invariants -/

/-- An enumeration and an operation of the tuner in flight. -/
def enumOp : LongOp := { kind := .enumeration, command := 0x51, tag := 77 }
def tunerOp : LongOp := { kind := .tuner, command := 0x63, tag := 78 }
def op50 : TunerOp := { kind := .tune, start := 50, loop := 3, found := 7, listFull := false }

/-- The tuner in job `j` at step `p`, both operations in flight. -/
def doing (j : Job) (st : TunerState) (p : TunerStep) (o : Option TunerOp := some op50) (f : Tuner → Tuner := id) : State :=
  let s := tuned fun x => f { x with state := st, job := j, step := p, op := o }
  { s with control := { s.control with longOps := [enumOp, tunerOp] } }

/-- What the tuner's operation in flight is, in the form the statements use. -/
theorem one_tuner_op (s : State) (h : s.control.longOps = [enumOp, tunerOp]) :
    s.control.longOps = [enumOp] ++ tunerOp :: [] ∧ tunerOp.kind = .tuner ∧ ∀ o ∈ [enumOp] ++ ([] : List LongOp), o.kind ≠ .tuner :=
  ⟨h, rfl, by decide⟩

def tunerIs (st : TunerState) : State := tuned fun x => { x with state := st }
def amIdle : State := tuned fun x => { x with band := .am, channel := 0 }

/-- Power and region in each state; thresholds; tunes to the last channels; seeks from the ends of both bands; scans; aborts. -/
theorem witness_TunerCommands :
    (Sends (sent (tunerIs .off) 0x60 [0]) 0x60 [0] ∧ (tunerIs .off).tuner.state = .off ∧ Sends (sent (tunerIs .fault) 0x60 [0]) 0x60 [0] ∧
      (tunerIs .fault).tuner.state = .fault ∧ Sends (sent busy 0x60 [0]) 0x60 [0] ∧ Sends (sent (tunerIs .off) 0x60 [1]) 0x60 [1] ∧
      Sends (sent busy 0x60 [1]) 0x60 [1] ∧ busy.tuner.state = .idle ∧ (∀ o ∈ busy.control.longOps, o.kind ≠ .tuner) ∧
      Sends (sent (doing (.tune false) .tuning .read) 0x60 [1]) 0x60 [1]) ∧
    (Sends (sent (tunerIs .fault) 0x61 [1]) 0x61 [1] ∧ Sends (sent busy 0x61 [0]) 0x61 [0] ∧ busy.tuner.region = .khz9 ∧ busy.tuner.band = .fm ∧
      Sends (sent busy 0x61 [1]) 0x61 [1] ∧ Sends (sent amIdle 0x61 [1]) 0x61 [1] ∧ amIdle.tuner.state = .idle ∧ amIdle.tuner.band = .am) ∧
    Sends (sent busy 0x62 [0, 121, 255, 255, 0, 120, 1]) 0x62 [0, 121, 255, 255, 0, 120, if false then 0 else 1] ∧
    (Sends (sent busy 0x63 [0, 1, 154]) 0x63 [0, 1, 154] ∧ ((1 : Byte) ++ (154 : Byte)).toNat = 410 ∧
      Sends (sent (tunerIs .fault) 0x63 [1, 0, 119]) 0x63 [1, 0, 119] ∧ ((0 : Byte) ++ (119 : Byte)).toNat = 119 ∧
      Sends (sent (tunerIs .off) 0x63 [1, 0, 119]) 0x63 [1, 0, 119] ∧
      (let s := tuned fun x => { x with channel := 410 }; Sends (sent s 0x64 [0]) 0x64 [if true then 0 else 1] ∧ s.tuner.channel = 410) ∧
      Sends (sent amIdle 0x64 [1]) 0x64 [if false then 0 else 1] ∧ amIdle.tuner.channel = 0 ∧
      Sends (sent busy 0x65 [0]) 0x65 [if false then 1 else 0] ∧ busy.named 10 = true ∧
      (∀ z, ((busy.zone z).state = .running ∨ (busy.zone z).state = .held) → ∀ e ∈ (busy.zone z).source, (busy.source e).port ≠ 10)) ∧
    (let s := zoned 2 fun x => { x with state := .held, source := some 1 }
     Sends (sent s 0x65 [0]) 0x65 [0] ∧ (s.zone 2).state = .held ∧ (s.zone 2).source = some 1 ∧ (s.source 1).port = 10 ∧ s.tuner.state = .idle) ∧
    (Sends (sent busy 0x66 []) 0x66 [] ∧ busy.tuner.job = .none ∧
      Sends (sent (doing (.check 33 1) .checking .setFrequency none) 0x66 []) 0x66 [] ∧
      Sends (sent (doing (.seekStep false) .seeking .read) 0x66 []) 0x66 [] ∧ Sends (sent (doing .scanFound .scanning .read) 0x66 []) 0x66 [] ∧
      Sends (sent (doing (.tune false) .tuning (.search 9990)) 0x66 []) 0x66 [] ∧
      (doing (.tune false) .tuning (.search 9990)).control.longOps = [enumOp] ++ tunerOp :: [] ∧
      (doing (.tune false) .tuning (.search 9990)).tuner.op = some op50 ∧ tunerOp.kind = .tuner) :=
  ⟨⟨sends _ _ _ rfl rfl, rfl, sends _ _ _ rfl rfl, rfl, sends _ _ _ rfl rfl, sends _ _ _ rfl rfl, sends _ _ _ rfl rfl, rfl, by decide,
      sends _ _ _ rfl rfl⟩,
    ⟨sends _ _ _ rfl rfl, sends _ _ _ rfl rfl, rfl, rfl, sends _ _ _ rfl rfl, sends _ _ _ rfl rfl, rfl, rfl⟩, sends _ _ _ rfl rfl,
    ⟨sends _ _ _ rfl rfl, by decide, sends _ _ _ rfl rfl, by decide, sends _ _ _ rfl rfl, ⟨sends _ _ _ rfl rfl, rfl⟩,
      sends _ _ _ rfl rfl, rfl, sends _ _ _ rfl rfl, rfl, by decide⟩,
    ⟨sends _ _ _ rfl rfl, rfl, rfl, rfl, rfl⟩,
    ⟨sends _ _ _ rfl rfl, rfl, sends _ _ _ rfl rfl, sends _ _ _ rfl rfl, sends _ _ _ rfl rfl, sends _ _ _ rfl rfl, rfl, rfl, rfl⟩⟩

/-- An abort of a return tune, of a power-on tune and of a tune and a seek already aborted; fields out of range in states that refuse, too. -/
theorem witness_TunerCommands_refused :
    (Sends (sent (doing (.back 50 true) .tuning .read none) 0x66 []) 0x66 [] ∧ (doing (.back 50 true) .tuning .read none).tuner.job = .back 50 true ∧
      Sends (sent (doing (.tune true) .tuning .read none) 0x66 []) 0x66 [] ∧ (doing (.tune true) .tuning .read none).tuner.job = .tune true ∧
      Sends (sent (doing (.seekFound true) .seeking .read none) 0x66 []) 0x66 [] ∧ (doing (.seekFound true) .seeking .read none).tuner.job = .seekFound true) ∧
    (Sends (sent (tunerIs .fault) 0x63 [0, 1, 155]) 0x63 [0, 1, 155] ∧ 410 < ((1 : Byte) ++ (155 : Byte)).toNat ∧
      Sends (sent busy 0x63 [1, 0, 120]) 0x63 [1, 0, 120] ∧ 119 < ((0 : Byte) ++ (120 : Byte)).toNat ∧ Sends (sent busy 0x63 [2, 0, 0]) 0x63 [2, 0, 0] ∧
      Sends (sent (tunerIs .checking) 0x64 [2]) 0x64 [2] ∧ Sends (sent (tunerIs .fault) 0x65 [255]) 0x65 [255] ∧ Sends (sent busy 0x60 [2]) 0x60 [2] ∧
      Sends (sent (tunerIs .scanning) 0x61 [2]) 0x61 [2] ∧ Sends (sent busy 0x62 [0, 0, 0, 0, 0, 0, 2]) 0x62 [0, 0, 0, 0, 0, 0, 2]) :=
  ⟨⟨sends _ _ _ rfl rfl, rfl, sends _ _ _ rfl rfl, rfl, sends _ _ _ rfl rfl, rfl⟩,
    ⟨sends _ _ _ rfl rfl, by decide, sends _ _ _ rfl rfl, by decide, sends _ _ _ rfl rfl, sends _ _ _ rfl rfl, sends _ _ _ rfl rfl,
      sends _ _ _ rfl rfl, sends _ _ _ rfl rfl, sends _ _ _ rfl rfl⟩⟩

/-- A weak FM signal since 4000 with two alternates, zone 0 RUNNING on P10, follow ON. -/
def weak : State :=
  let s := tuned fun x => { x with follow := true, followThreshold := 100, lowSince := some 4000, monitorSince := 9950 }
  { s with stationData := { s.stationData with alternates := [200, 3] }, zones := s.zones.set 0 { s.zone 0 with source := some 1 } }

def reading90 : Reading := { strength := 90, multipath := 13, stereo := true, alignment := 77 }

/-- Each step of a visit, first and again; a monitor read with follow OFF, and one that begins a check. -/
theorem witness_TunerVisitSteps :
    (Calm busy ∧ (doing (.tune false) .tuning .setFrequency).tuner.step = .setFrequency ∧
      (doing (.tune false) .tuning (.setAlignment none)).tuner.step = .setAlignment none ∧
      (doing (.tune false) .tuning (.setAlignment (some 128))).tuner.step = .setAlignment (some 128)) ∧
    ((doing (.tune false) .tuning .read).tuner.again = false ∧
      (let s := doing (.tune false) .tuning .read (some op50) fun x => { x with again := true }
       s.tuner.again = true ∧ s.tuner.step = .read ∧ s.tuner.state ≠ .fault ∧ s.control.longOps = [enumOp] ++ tunerOp :: [] ∧ tunerOp.kind = .tuner) ∧
      (let s := tuned fun x => { x with state := .tuning, job := .back 5 false, step := .read, again := true }
       s.tuner.step = .read ∧ s.tuner.again = true ∧ s.tuner.state ≠ .fault ∧ ∀ o ∈ s.control.longOps, o.kind ≠ .tuner)) ∧
    ((doing (.tune false) .tuning (.settle 9999)).tuner.step = .settle 9999 ∧ (doing (.tune true) .tuning (.search 0)).tuner.step = .search 0 ∧
      (doing (.tune true) .tuning (.wait 9999)).tuner.step = .wait 9999) ∧
    (busy.tuner.state = .idle ∧ busy.tuner.follow = false ∧ Calm busy) ∧
    (weak.tuner.state = .idle ∧ weak.tuner.follow = true ∧ weak.tuner.band = .fm ∧ reading90.strength.toNat < weak.tuner.followThreshold ∧
      weak.tuner.lowSince = some 4000 ∧ 5000 ≤ max weak.now (weak.tuner.monitorSince + 100) - 4000 ∧ weak.stationData.alternates = 200 :: [3] ∧
      (weak.zone 0).state = .running ∧ (weak.zone 0).source = some 1 ∧ (weak.source 1).port = 10 ∧ Calm weak ∧ weak.named 10 = true) :=
  ⟨⟨rfl, rfl, rfl, rfl⟩, by decide, by decide, ⟨rfl, rfl, rfl⟩, ⟨rfl, rfl, rfl, by decide, rfl, by decide, rfl, rfl, rfl, rfl, rfl, by decide⟩⟩

/-- A monitor read that begins no check: a strong signal, 4,999 ms of a weak one, no alternate, no zone RUNNING on P10. -/
theorem witness_TunerVisit_noCheck :
    (weak.tuner.state = .idle ∧ weak.tuner.follow = true ∧ Calm weak ∧ ¬ (120 : Byte).toNat < weak.tuner.followThreshold) ∧
    (let s : State := { weak with tuner := { weak.tuner with lowSince := some 5051 } }
     s.tuner.lowSince = some 5051 ∧ max s.now (s.tuner.monitorSince + 100) - 5051 = 4999) ∧
    ({ weak with stationData := { weak.stationData with alternates := [] } } : State).stationData.alternates = [] ∧
    (let s : State := { weak with zones := busy.zones }
     (∀ z e, (s.zone z).state = .running → (s.zone z).source = some e → (s.source e).port ≠ 10) ∧ s.tuner.lowSince = some 4000) := by
  unfold Calm
  decide

/-- A station list of 48 stations on AM. -/
def fullList : List Station := (List.range 48).map fun i => { band := .am, channel := i, strength := 0, code := none, name := none }

/-- What passes with the thresholds at reset, and what does not. -/
def reading9 : Reading := { reading90 with strength := 9 }
def good (x : Tuner) (q : Reading) : Bool := x.strengthThreshold ≤ q.strength.toNat && q.multipath.toNat ≤ x.multipathThreshold

/-- Each job at its measurement; a seek at its last channel; a scan at channel 410 and with a full list; a check of the last alternate. -/
theorem witness_MeasurementsDecide :
    ((doing (.tune false) .tuning .read).tuner.step = .read ∧ (doing (.tune false) .tuning .read).tuner.job = .tune false ∧
      (doing (.tune false) .tuning .read).control.longOps = [enumOp] ++ tunerOp :: [] ∧ (∀ o ∈ [enumOp] ++ ([] : List LongOp), o.kind ≠ .tuner)) ∧
    (good busy.tuner reading90 = true ∧ good busy.tuner reading9 = false ∧ busy.tuner.band = .fm) ∧
    ((doing (.seekFound false) .seeking .read).tuner.job = .seekFound false ∧
      (let s := doing (.seekStep true) .seeking .read (some op50) fun x => { x with hit := true }
       s.tuner.job = .seekStep true ∧ s.tuner.op ≠ none ∧ s.tuner.hit = true ∧ s.tuner.state = .seeking)) ∧
    ((doing (.tune true) .tuning .read).tuner.job = .tune true ∧ (doing (.seekFound true) .seeking .read).tuner.job = .seekFound true) ∧
    (let s := doing (.seekStep true) .seeking .read
     s.tuner.hit = false ∧ Calm s ∧ s.tuner.op = some op50 ∧ 1 < op50.loop ∧ s.tuner.channel ≤ 410 ∧ ({ op50 with loop := 1 } : TunerOp).loop ≤ 1) ∧
    (let s := doing .scanStep .scanning .read
     s.tuner.job = .scanStep ∧ s.tuner.state = .scanning ∧ s.tuner.channel < 410 ∧ ¬ 48 ≤ s.stations.length ∧ s.tuner.hit = false ∧ Calm s) ∧
    (let s := { doing .scanStep .scanning .read (some op50) fun x => { x with channel := 410 } with stations := fullList }
     410 ≤ s.tuner.channel ∧ 48 ≤ s.stations.length ∧ ∀ y ∈ s.stations, ¬ (y.band = s.tuner.band ∧ y.channel = s.tuner.channel)) ∧
    (doing .scanFound .scanning .read).tuner.job = .scanFound ∧
    ((doing (.back 50 true) .tuning .read none).tuner.op = none ∧
      (doing (.back 50 false) .tuning .read (some { op50 with kind := .seek })).tuner.op = some { op50 with kind := .seek } ∧
      (doing (.back 50 false) .tuning .read (some { op50 with kind := .scan, listFull := true })).tuner.job = .back 50 false) ∧
    (let s := { doing (.check 50 0) .checking .read none with stationData := { StationData.reset with alternates := [3, 4], stable := some 0x1234 } }
     s.tuner.job = .check 50 0 ∧ s.tuner.state = .checking ∧ Calm s ∧ s.stationData.alternates[0 + 1]? = some 4 ∧ s.stationData.alternates[1 + 1]? = none ∧
      s.stationData.stable = some ((0x12 : Byte) ++ (0x34 : Byte)) ∧ s.stationData.stable ≠ some ((0x12 : Byte) ++ (0x35 : Byte))) ∧
    ((doing (.check 50 1) .checking (.ident 7) none).tuner.step = .ident 7 ∧
      (0xA5 ^^^ 5 ^^^ 0x12 ^^^ 0x34 ^^^ 3 ^^^ 4 ^^^ 5 : Byte) = 0x84 ∧ ((0x12 : Byte) ++ (0x34 : Byte)) ≠ (0 : BitVec 16) ∧ (5 : Byte).toNat < 16) :=
  ⟨⟨rfl, rfl, rfl, by decide⟩, by decide, ⟨rfl, rfl, by decide, rfl, rfl⟩, ⟨rfl, rfl⟩, ⟨rfl, rfl, rfl, by decide⟩, ⟨rfl, rfl, by decide, by decide, rfl, rfl⟩,
    by decide, rfl, ⟨rfl, rfl, rfl⟩, ⟨rfl, rfl, rfl, rfl, rfl, rfl, by decide⟩, ⟨rfl, by decide⟩⟩

/-- A station of FM channel 410 entered before AM channel 0, and one whose entry stands in the list. -/
theorem witness_Measurements_entered :
    let st : Band → Nat → Station := fun b ch => { band := b, channel := ch, strength := 7, code := some 9, name := none }
    (∀ z ∈ st .fm 410 :: ([st .fm 3] ++ [st .am 0]), z.channel ≤ 410) ∧ (∀ z ∈ [st .fm 3], z.band = .fm ∧ z.channel < 410) ∧
    enterStation (st .fm 410) ([st .fm 3] ++ [st .am 0]) = [st .fm 3, st .fm 410, st .am 0] ∧
    enterStation { st .am 0 with strength := 60, code := none } ([st .fm 3] ++ [st .am 0]) = [st .fm 3, { st .am 0 with strength := 60 }] := by decide

/-- An entry of station memory of rank `r` for channel `ch` of FM. -/
def mem (r : Option Nat) (ch : Nat) : StationEntry :=
  { band := .fm, channel := ch, rank := r, alignment := 50, quality := { strength := 1, multipath := 2, stereo := true }, code := some 9, name := none }

/-- `busy` with ways `w` in the set of FM channel 100. -/
def remembers (w : Vector (Option StationEntry) 4) : State :=
  { busy with stationMemory := { busy.stationMemory with sets := busy.stationMemory.sets.set (setIndex .fm 100) w } }

def waysHeld : Vector (Option StationEntry) 4 := #v[some (mem (some 1) 84), none, some (mem none 4), some (mem (some 2) 100)]
def waysLockedHere : Vector (Option StationEntry) 4 := #v[some (mem (some 1) 84), none, some (mem none 4), some (mem none 100)]
def waysFree : Vector (Option StationEntry) 4 := #v[some (mem (some 1) 84), none, some (mem none 4), none]
def waysFull : Vector (Option StationEntry) 4 := #v[some (mem (some 2) 84), some (mem (some 1) 20), some (mem none 4), some (mem (some 3) 36)]
def waysLocked : Vector (Option StationEntry) 4 := #v[some (mem none 84), some (mem none 20), some (mem none 4), some (mem none 36)]

/-- The way of an entry, no match, the lowest invalid way, the lowest way of rank 1 and a set of four locked entries, as the statement
says them. -/
abbrev IsAt (t : StationSet) (w : Fin 4) (ch : Nat) (e : StationEntry) : Prop :=
  t[w] = some e ∧ e.band = .fm ∧ e.channel = ch ∧ ∀ v : Fin 4, ∀ y ∈ t[v], v < w → ¬ (y.band = .fm ∧ y.channel = ch)
abbrev Lacks (t : StationSet) (ch : Nat) : Prop := ∀ v : Fin 4, ∀ y ∈ t[v], ¬ (y.band = .fm ∧ y.channel = ch)

/-- A lookup that hits in way 3 and one that misses; the sets of FM channel 100 and of AM channel 100. -/
theorem witness_TunerVisit_lookup :
    (4 : Fin 16).val = (100 + 0) % 16 ∧ (12 : Fin 16).val = (100 + 8) % 16 ∧ (remembers waysHeld).stationMemory.sets[4] = waysHeld ∧
    IsAt waysHeld 3 100 (mem (some 2) 100) ∧ Lacks waysFree 100 := by decide

/-- List reads at the ends of their ranges; a channel above and at 410; each case of PRESET, UNLOCK and a hand-over on the set of channel 100. -/
theorem witness_StationMemoryCommands :
    (Sends (sent busy 0x68 [47, 8]) 0x68 [47, 8] ∧ Sends (sent busy 0x68 [48, 1]) 0x68 [48, 1] ∧ Sends (sent busy 0x68 [0, 9]) 0x68 [0, 9] ∧
      Sends (sent busy 0x69 []) 0x69 [] ∧ Sends (sent busy 0x70 [1]) 0x70 [1] ∧ Sends (sent busy 0x70 [2]) 0x70 [2] ∧
      Sends (sent busy 0x73 []) 0x73 [] ∧ Sends (sent busy 0x71 [0, 1, 155]) 0x71 [0, 1, 155] ∧ Sends (sent busy 0x72 [1, 0, 120]) 0x72 [1, 0, 120] ∧
      Sends (sent busy 0x71 [0, 1, 154]) 0x71 [0, 1, 154] ∧ busy.tuner.channel ≠ ((1 : Byte) ++ (154 : Byte)).toNat) ∧
    (Sends (sent (remembers waysHeld) 0x71 [0, 0, 100]) 0x71 [0, 0, 100] ∧ busy.tuner.state = .idle ∧ busy.tuner.band = .fm ∧
      busy.tuner.channel = ((0 : Byte) ++ (100 : Byte)).toNat ∧ Sends (sent (remembers waysHeld) 0x72 [0, 0, 100]) 0x72 [0, 0, 100] ∧
      (remembers waysHeld).stationMemory.sets[setIndex .fm 100] = waysHeld) ∧
    (IsAt waysHeld 3 100 (mem (some 2) 100) ∧ IsAt waysLockedHere 3 100 (mem none 100) ∧
      (Lacks waysFree 100 ∧ waysFree[1] = none ∧ ∀ v : Fin 4, v < 1 → waysFree[v] ≠ none) ∧
      (Lacks waysFull 100 ∧ (∀ v : Fin 4, waysFull[v] ≠ none) ∧ waysFull[1].any (fun y => y.rank == some 1) = true ∧
        ∀ v : Fin 4, v < 1 → waysFull[v].any (fun y => y.rank == some 1) = false) ∧
      Lacks waysLocked 100 ∧ ∀ v : Fin 4, ∃ y, waysLocked[v] = some y ∧ y.rank ≠ some 1) :=
  ⟨⟨sends _ _ _ rfl rfl, sends _ _ _ rfl rfl, sends _ _ _ rfl rfl, sends _ _ _ rfl rfl, sends _ _ _ rfl rfl, sends _ _ _ rfl rfl, sends _ _ _ rfl rfl,
      sends _ _ _ rfl rfl, sends _ _ _ rfl rfl, sends _ _ _ rfl rfl, by decide⟩,
    ⟨sends _ _ _ rfl rfl, rfl, rfl, rfl, sends _ _ _ rfl rfl, rfl⟩,
    ⟨by decide, by decide, by decide, by decide, by decide,
      fun v => match v with
        | 0 => ⟨_, rfl, by decide⟩
        | 1 => ⟨_, rfl, by decide⟩
        | 2 => ⟨_, rfl, by decide⟩
        | 3 => ⟨_, rfl, by decide⟩⟩⟩

/-- A band byte above 1 in PRESET and in UNLOCK. -/
theorem witness_StationMemoryCommands_band :
    Sends (sent busy 0x71 [2, 0, 100]) 0x71 [2, 0, 100] ∧ Sends (sent busy 0x72 [2, 0, 100]) 0x72 [2, 0, 100] ∧ 1 < (2 : Byte).toNat :=
  ⟨sends _ _ _ rfl rfl, sends _ _ _ rfl rfl, by decide⟩

/-- `busy` with station data changed; with the stable code 1234 in a run of 2. -/
def data (f : StationData → StationData) : State := { busy with stationData := f busy.stationData }
def stable (f : StationData → StationData) : State := data fun x => f { x with stable := some 0x1234, candidate := some (0x1234, 2) }

/-- The check byte of a group of code 1234 whose last data bytes are 4 and 5. -/
def checkByte (head b3 : Byte) : Byte := 0xA5 ^^^ head ^^^ 0x12 ^^^ 0x34 ^^^ b3 ^^^ 4 ^^^ 5

/-- A name of which the third segment is missing. -/
def partName : Vector (Option (Byte × Byte)) 4 := #v[some (1, 2), some (3, 4), none, some (7, 8)]

/-- Groups with a wrong check byte, code 0 and type 3; the first and second IDENT group of a code; each run; NAME and ALTFREQ groups. -/
theorem witness_StationDataGroups :
    (Calm busy ∧ busy.tuner.state = .idle ∧ busy.tuner.band = .fm) ∧
    ((0 : Byte) ≠ checkByte 0 0 ∧ ((0 : Byte) ++ (0 : Byte)) = (0 : BitVec 16) ∧ 2 < (0x30 : Byte).toNat / 16 ∧
      ((0x12 : Byte) ++ (0x34 : Byte)) ≠ (0 : BitVec 16)) ∧
    (((0 : Byte).toNat / 16 = 0) ∧ busy.stationData.stable ≠ some 0x1234 ∧ busy.stationData.candidate = none ∧
      (let s := data fun x => { x with candidate := some (0x1234, 1) }; s.stationData.candidate = some (0x1234, 1) ∧ s.stationData.active = none)) ∧
    ((stable id).stationData.stable = some ((0x12 : Byte) ++ (0x34 : Byte)) ∧ (2 : Byte).getLsbD 1 = true ∧ (stable id).stationData.setRun = 0 ∧
      (let s := stable fun x => { x with setRun := 1 }; s.stationData.setRun = 1 ∧ s.stationData.active = none ∧ s.stationData.rearm = false) ∧
      (5 : Byte).getLsbD 1 = false ∧ (stable id).stationData.clearRun = 0 ∧
      (let s := stable fun x => { x with clearRun := 1, active := some 77 }; 1 ≤ s.stationData.clearRun ∧ s.stationData.active ≠ none)) ∧
    ((0x1F : Byte).toNat / 16 = 1 ∧ 3 < (0x1F : Byte).toNat % 16 ∧ (0x12 : Byte).toNat % 16 = (2 : Fin 4).val ∧
      (let s := stable fun x => { x with name := partName }
       let name := s.stationData.name.set 2 (some (65, 4))
       s.stationData.name[2] ≠ some (65, 4) ∧ (∀ j : Fin 4, name[j] = some (#v[(1, 2), (3, 4), ((65 : Byte), (4 : Byte)), (7, 8)])[j])) ∧
      (∃ j : Fin 4, ((stable id).stationData.name.set 2 (some (65, 4)))[j] = none)) ∧
    ((0x20 : Byte).toNat / 16 = 2 ∧ 410 < ((1 : Byte) ++ (0x9B : Byte)).toNat ∧ ((1 : Byte) ++ (0x9A : Byte)).toNat ≤ 410) ∧
    (stable fun x => { x with active := some 77 }).stationData.active = some 77 :=
  ⟨⟨rfl, rfl, rfl⟩, by decide, ⟨by decide, by decide, rfl, rfl, rfl⟩, ⟨rfl, by decide, rfl, ⟨rfl, rfl, rfl⟩, by decide, rfl, by decide⟩,
    ⟨by decide, by decide, rfl, ⟨by decide, by decide⟩, 0, rfl⟩, by decide, rfl⟩

/-- `s` with commands `l` waiting in the model's queue. -/
def queued (s : State) (l : List Instr) : State := { s with pending := l }

/-- Zone 0 taken by an announcement, zone 2 on the wait list with both decoders bound; two modules, of which one has won an address again;
stations listed and remembered; a volume command waits in both queues. -/
def waits : State :=
  let s := remembers waysFull
  let z := (s.zones.set 0 { s.zone 0 with stack := [stk, hostStk] }).set 2 { Zone.reset 2 with
    state := .acquiring, reason := some .waitDecoder, source := some 2 }
  queued (sent { s with
    zones := z, waitList := [2], decoders := s.decoders.set 1 { Decoder.reset with state := .search, port := some 5 }
    link := { s.link with
      exchange := .assign { identity := 9, address := 2, entry := 1 } false, enumRun := some { origin := .start, rounds := 0, assigned := 0, failed := 0 }
      table := s.link.table.set 1 (some { entry0 with identity := 9, address := 1, presence := .absent }) }
    stationData := { s.stationData with active := some 9000 }
    stations := [{ band := .fm, channel := 3, strength := 50, code := none, name := none }, { band := .am, channel := 3, strength := 50, code := none, name := none }] }
    0x22 [0, 0, 5]) [.zoneVolume]

/-- A state with a command waiting, in which the invariant holds, and whose step answers a next state. -/
theorem witness_EveryStepKeepsControlRight : ControlRight waits ∧ ∃ t, step waits = .next t :=
  ⟨⟨by unfold CommandBound; decide, by unfold QueueBound; decide, fun _ => Nat.zero_le _, rfl, by decide⟩, _, rfl⟩

theorem witness_EveryStepKeepsZonesRight : ZonesRight waits ∧ waits.waitList ≠ [] ∧ announcements (waits.zone 0) ≠ [] ∧ ∃ t, step waits = .next t :=
  have lanes : ∀ i j : SlotId, i ≠ j → ∀ a ∈ (waits.slot i).assigned, ∀ b ∈ (waits.slot j).assigned,
      a.dest ≠ b.dest ∧ (a.dest.lane = b.dest.lane → a.zone = b.zone) := by decide
  ⟨⟨by unfold PoolBound; decide, by decide, by unfold WaitListRight; decide, by unfold StacksRight; decide, by unfold DecoderPortsRight; decide,
    fun i j a b hij ha hb => lanes i j hij a ha b hb⟩, by decide, by decide, _, rfl⟩

/-- The module table of `waits` is right. -/
theorem waits_table : TableRight waits :=
  have apart : ∀ j k : EntryId, j ≠ k → ∀ d ∈ waits.entry j, ∀ e ∈ waits.entry k,
      d.identity ≠ e.identity ∧ (d.presence = .present → e.presence = .present → d.address ≠ e.address) := by decide
  have bounds : ∀ k : EntryId, ∀ e ∈ waits.entry k, 1 ≤ e.address ∧ e.address ≤ 6 := by decide
  have won : ∀ w ∈ winner waits.link.exchange, 1 ≤ w.address ∧ w.address ≤ 6 ∧
      ∀ k : EntryId, k ≠ w.entry → ∀ e ∈ waits.entry k, e.identity ≠ w.identity ∧ (e.presence = .present → e.address ≠ w.address) := by decide
  ⟨fun j k d e hjk hd he => apart j k hjk d hd e he, fun k e he => bounds k e he,
    fun w hw => ⟨(won w hw).1, (won w hw).2.1, fun k e hk he => (won w hw).2.2 k hk e he⟩⟩

/-- Station memory of `waits` is right. -/
theorem waits_memory : StationMemoryRight waits.stationMemory :=
  have h : ∀ i : Fin 16,
      (∀ v w : Fin 4, v ≠ w → ∀ d ∈ (waits.stationMemory.sets[i])[v], ∀ e ∈ (waits.stationMemory.sets[i])[w],
        ¬ (d.band = e.band ∧ d.channel = e.channel)) ∧
      (∀ w : Fin 4, ∀ e ∈ (waits.stationMemory.sets[i])[w], setIndex e.band e.channel = i) ∧
      (ranks waits.stationMemory.sets[i]).Perm (List.range' 1 (ranks waits.stationMemory.sets[i]).length) := by decide
  fun i => ⟨fun v w d e hvw hd he => (h i).1 v w hvw d hd e he, fun w e he => (h i).2.1 w e he, (h i).2.2⟩

theorem witness_EveryStepKeepsRecordsRight : RecordsRight waits ∧ waits.protModule 0 ≠ none ∧ ∃ t, step waits = .next t :=
  have h : ∀ k, ∀ m ∈ waits.protModule k, ∀ r ∈ m.records,
      (r.state = .shut ∨ r.state = .latched → r.muted = true) ∧ (r.state = .normal ∨ r.state = .warned → r.muted = false) := by decide
  ⟨⟨⟨by decide, by decide, trivial⟩, List.Pairwise.nil, fun k m e => h k m e, waits_table, waits_memory⟩, by decide, _, rfl⟩

/-! ## Single steps

Each expected value is worked out from the rule the comment names. Codes: R186 and the tables of 11.2. -/

/-- The payload of the first reply in the outgoing queue. -/
def firstReply (s : State) : List Byte := (s.control.outgoing.find? (·.kind == 0x80)).elim [] (·.payload)

/-- The reply, as (result code :: kind :: data), of command `k` with payload `p` on `s`, by row `i`. -/
def reply (i : Instr) (s : State) (k : Byte) (p : List Byte) : Option (List Byte) := after i (sent s k p) firstReply

-- R195: the reset state has NOT_READY set; 11.1: with eight free places the status byte is 88.
theorem test_statusTransfer_afterReset : after .statusTransfer State.reset (·.dataOut) = some [0x88] := by decide
theorem test_initialisationEnd_start : after .initialisationEnd State.reset (fun s => (s.control.notReady, s.control.outgoing.length)) = some (false, 1) := by decide
-- R185: a frame of length byte 3 is taken; one that is cut short is dropped.
theorem test_writeTransfer_takes :
    after (.writeTransfer [3, 0x53, 9, 0, 77]) ready (·.control.commands) = some [{ kind := 0x53, tag := 9, flags := 0, payload := [] }] := by decide
theorem test_writeTransfer_cut :
    after (.writeTransfer [4, 0x53, 9, 0]) ready (fun s => (s.control.commands, s.control.dropped)) = some ([], true) := by decide
-- R184: a READ of an empty queue brings one length byte of 0; the status byte of a ready part shows 8 free places.
theorem test_readTransfer_empty : after (.readTransfer 1) ready (·.dataOut) = some [0x08, 0] := by decide
theorem test_otherTransfer_status : after (.otherTransfer 9 0) ready (·.dataOut) = some [0x08] := by decide
-- R187: BAD_FORMAT is code 2.
theorem test_unknownKind_badFormat : reply .unknownCommandKind ready 0x03 [] = some [2, 0x03] := by decide
theorem test_zoneVolume_wrongLength : reply .zoneVolume busy 0x22 [0, 0] = some [2, 0x22] := by decide
-- R196: START with cause SOFT (1), part 8400 (20D0); NOT_READY is clear again.
theorem test_sysReset_start : after .sysReset (sent busy 0x01 []) (fun s => (s.control.notReady, (lastReply s).take 3)) = some (false, [1, 0x20, 0xD0]) := by decide
-- R190: bit k − 1 stands for kind k: 0x0801 enables kinds 1 and 12.
theorem test_noteMask_bits :
    after .noteMask (sent busy 0x02 [0x08, 0x01]) (fun s => (s.control.enabled[1], s.control.enabled[2], s.control.enabled[11], s.control.enabled[12])) =
      some (true, false, false, true) := by decide
-- R14: SRC.DEFINE of an entry in use (entry 0 is the source of zone 0) is NOT_NOW or CONFLICT, and changes nothing.
theorem test_srcEnable_outOfRange : reply .srcEnable busy 0x11 [16, 0] = some [3, 0x11] := by decide
-- R2: a port that becomes named goes from OFF to NO_SIGNAL.
theorem test_srcEnable_namesPort : after .srcEnable (sent ready 0x11 [0, 0]) (fun s => ((s.port 0).state, (s.source 0).enabled)) = some (.noSignal, true) := by decide
-- R3: a clock on a port in NO_SIGNAL leads to LOCKING.
theorem test_clockSeen_locking :
    after (.clockSeen 1) { ready with ports := ready.ports.set 1 { Port.reset with state := .noSignal } } (fun s => (s.port 1).state) = some .locking := by decide
theorem test_clockLost_noSignal : after (.clockLost 1) busy (fun s => ((s.port 1).state, (s.port 1).rate)) = some (.noSignal, none) := by decide
-- R3: 48,096.001 Hz is outside 0.2 % of 48,000 Hz, 48,096 Hz is not. R1: a short word is filled with zeros, a long one is cut.
theorem test_rateChange_outside : after (.rateChange 1 48096001) busy (fun s => (s.port 1).state) = some .locking := by decide
theorem test_rateChange_within : after (.rateChange 1 48096000) busy (fun s => (s.port 1).state) = some .locked := by decide
theorem test_takenWord_lengths : [takenWord ⟨16, 0x8001⟩, takenWord ⟨24, 0x8001⟩, takenWord ⟨30, 0x20000041⟩] = [0x800100, 0x8001, 0x800001] := by decide
-- R29: ZONE.POWER on of a zone without source: IDLE; off of a running one: STANDBY.
theorem test_zonePower_on : after .zonePower (sent busy 0x20 [2, 0]) (fun s => (s.zone 2).state) = some .idle := by decide
theorem test_zonePower_off : after .zonePower (sent busy 0x20 [0, 1]) (fun s => ((s.zone 0).state, (s.zone 0).rate)) = some (.standby, none) := by decide
theorem test_zoneSource_disabled : reply .zoneSource busy 0x21 [0, 9] = some [4, 0x21] := by decide
-- R31: 25 is above the maximum of 24 (R18): CLAMPED with 24; −160 is the floor.
theorem test_zoneVolume_clampsHigh : reply .zoneVolume busy 0x22 [0, 0, 25] = some [1, 0x22, 0, 24] := by decide
theorem test_zoneVolume_clampsLow : reply .zoneVolume busy 0x22 [0, 0xFF, 0x5F] = some [1, 0x22, 0xFF, 0x60] := by decide
-- R32: a maximum of −100 lowers the volume of −80 (R18) to −100.
theorem test_zoneMaxvol_lowers : after .zoneMaxvol (sent busy 0x23 [0, 0xFF, 0x9C]) (fun s => ((s.zone 0).maxVolume, (s.zone 0).volume)) = some (-100, -100) := by decide
theorem test_zoneMute_badAction : reply .zoneMute busy 0x24 [0, 2] = some [3, 0x24] := by decide
-- R34: the context saved is the source, volume and mute in force, with cause HOST.
theorem test_zonePush_saves :
    after .zonePush (sent busy 0x25 [0, 1, 0, 0]) (fun s => ((s.zone 0).stack.map fun e => (e.source, e.volume, e.mute), (s.zone 0).source, (s.zone 0).volume)) =
      some ([(some 0, -80, false)], some 1, 0) := by decide
theorem test_zonePop_empty : reply .zonePop busy 0x26 [0] = some [4, 0x26] := by decide
-- R36: FOLLOW (1) with an entry whose port is not P10 is BAD_VALUE; with entry 1 (P10) OK.
theorem test_zoneAnnounce_wrongPort : reply .zoneAnnounce busy 0x27 [0, 1, 0, 0, 0] = some [3, 0x27] := by decide
theorem test_zoneAnnounce_ok : after .zoneAnnounce (sent busy 0x27 [0, 1, 1, 0, 0]) (fun s => ((s.zone 0).policy, (s.zone 0).annSource)) = some (.follow, some 1) := by decide
-- R83: 201 ms is clamped to 200 (00C8).
theorem test_zoneLipsync_clamps : reply .zoneLipsync busy 0x28 [0, 0, 201] = some [1, 0x28, 0, 200] := by decide
theorem test_zoneDrc_badAction : reply .zoneDrc busy 0x29 [0, 2] = some [3, 0x29] := by decide
theorem test_zoneUpmix_on : after .zoneUpmix (sent busy 0x2A [2, 0]) (fun s => (s.zone 2).upmix) = some true := by decide
theorem test_zoneQuery_zoneThree : reply .zoneQuery busy 0x2B [3] = some [3, 0x2B] := by decide
-- R40: the zone's flags are cleared, clip counters kept.
theorem test_zoneFlagsClear_clears :
    after .zoneFlagsClear (sent (zoned 0 fun x => { x with delayClamped := true, annMissed := true }) 0x2C [0])
      (fun s => ((s.zone 0).delayClamped, (s.zone 0).annMissed)) = some (false, false) := by decide
theorem test_decQuery_decoderTwo : reply .decQuery busy 0x30 [2] = some [3, 0x30] := by decide
-- R54: a LOCKED decoder without a ready frame counts a slip at the span boundary.
theorem test_spanBoundary_slip : after (.spanBoundary 0) busy (fun s => ((s.decoder 0).counters.slips, (s.decoder 0).playing)) = some (1, none) := by decide
-- R21, R55: a frame with another channel count takes its user through ACQUIRING back to RUNNING at once, with a new allocation, in HOLD too.
theorem test_spanBoundary_otherCount_hold :
    after (.spanBoundary 0) (thinning .hold [1] 0)
      (fun s => ((s.zone 1).state, (s.zone 1).reason, (s.zone 1).map, (s.zone 1).allocation)) = some (.running, none, some [2], 9600) := by decide
-- R48: the spec's example: −4 to position 63, −10 to 199, then 0; the exit gain is 0.
theorem test_dynamicGain_example :
    [0, 63, 64, 199, 200, 255].map (gainAt (-4) [{ position := 64, gain := -10 }, { position := 200, gain := 0 }]) = [-4, -4, -10, -10, 0, 0] := by decide
-- R65: the table of requested delays. R90: the example of the fold chain. R62: Lim(6).
theorem test_requestedDelay_table :
    [requestedDelay 33 0 44100, requestedDelay 120 0 48000, requestedDelay 100 50 96000, requestedDelay 200 100 192000] = [1455, 5760, 14400, 48000] := by decide
theorem test_limitOf_six : (limitOf 6, levelCoef 3) = (5931519, 13777) := by decide
theorem test_matrix_foldChain :
    ((deriveMatrix (laidOut [(2, .large)]) [10] (-6) (-12)).rows.find? (·.role == 0)).map (·.coefs) = some [5793] := by decide
-- R71: halves go up.
theorem test_levelScale_halves : (levelScale (16384 * 5) (-12), levelScale (16384 * (-5)) (-12)) = (3, -2) := by decide
-- R77: −3 × 1/32 and +3 × 1/32 both give 0; −64 × 31/32 gives −62.
theorem test_rampScale_truncates : (rampScale (-3) 1, rampScale 3 1, rampScale (-64) 31) = (0, 0, -62) := by decide
-- R80: a sample of 5000000 at full ramp under a limit of 12 steps leaves as 4194303; the clip counter rises.
theorem test_samplePeriod_limits :
    after (.zoneSamplePeriod 0 [⟨24, 0x7FFFFF⟩, ⟨24, 0⟩])
      { zoned 0 (fun x => { x with blockPos := some 0, active := { x.active with volume := 0 } }) with
        slots := busy.slots.set 0 { busy.slot 0 with activeLimit := 12 } }
      (fun s => ((s.slot 0).word, (s.slot 0).limited, (s.slot 0).clips)) = some (4194303, true, 1) := by decide
theorem test_layoutSet_absentFront : reply .layoutSet busy 0x38 (0 :: List.replicate 12 0) = some [3, 0x38] := by decide
theorem test_xoverLoad_badSet : reply .xoverLoad busy 0x39 (0 :: 2 :: List.replicate 20 0) = some [3, 0x39] := by decide
-- R98: ADD without a stored matrix is NOT_NOW; n = 0 is BAD_VALUE.
theorem test_matrixLoad_addWithoutStore : reply .matrixLoad busy 0x3A [0, 1, 1, 0, 0] = some [4, 0x3A] := by decide
theorem test_matrixLoad_emptyMap : reply .matrixLoad busy 0x3A [0, 0, 0, 0] = some [3, 0x3A] := by decide
theorem test_matrixMode_custom : after .matrixMode (sent busy 0x3B [2, 1]) (fun s => (s.zone 2).matrixMode) = some .custom := by decide
-- R101: a custom matrix that plays is not shown inactive; it is once another map is stored, in RUNNING and HELD alike.
theorem test_customInactive_otherMapStored :
    ([([0, 1] : List Role), [0, 2]].map fun m =>
      ({ runs 0 0 none with matrixMode := .custom, matrix := some { stereoMatrix with custom := true }, store := some { map := m, rows := [] } } : Zone).customInactive)
      = [false, true] := by decide
-- R108: a line output that another slot has, and a lane of another zone, are CONFLICT (6).
theorem test_slotAssign_sameLine : reply .slotAssign busy 0x40 (toLine 5 0 3 0) = some [6, 0x40] := by decide
theorem test_slotAssign_laneOfOther : reply .slotAssign busy 0x40 (toLine 5 2 3 1) = some [6, 0x40] := by decide
-- R110: the slot is UNASSIGNED; R107: the module is told the mask without its channel 1.
theorem test_slotRelease_unassigns : after .slotRelease (sent busy 0x41 [0]) (fun s => ((s.slot 0).state, (s.slot 0).assigned)) = some (.unassigned, none) := by decide
theorem test_slotDistance_clamps : reply .slotDistance busy 0x42 [0, 3, 233] = some [1, 0x42, 3, 232] := by decide
theorem test_slotTrim_clamps : reply .slotTrim busy 0x43 [0, 0xFF, 0xE7] = some [1, 0x43, 0xFF, 0xE8] := by decide
theorem test_slotLimit_clamps : reply .slotLimit busy 0x44 [0, 0, 49] = some [1, 0x44, 0, 48] := by decide
theorem test_slotQuery_sixteen : reply .slotQuery busy 0x45 [16, 0] = some [3, 0x45] := by decide
-- R120: from HELD the release to address 0 names every identity; an enumeration of origin START follows.
theorem test_linkStart_enumerates :
    after .linkStart (sent ready 0x50 [0]) (fun s => (s.link.accept, (s.link.enumRun.map (·.origin)))) = some (true, some .start) := by decide
theorem test_linkEnum_held : reply .linkEnum ready 0x51 [] = some [4, 0x51] := by decide
theorem test_linkReset_empties : after .linkReset (sent busy 0x52 []) (fun s => ((s.entry 0).isSome, (s.protModule 0).isSome, (s.slot 1).state)) = some (false, false, .silent) := by decide
-- R128: a second negative acknowledge is a miss; the third miss makes the module ABSENT (R130).
theorem test_transaction_thirdMiss :
    after (.transactionComplete .notAcknowledged) (carrying .readStatus true 2) (fun s => (s.entry 0).map fun e => (e.presence, e.misses)) =
      some (some (.absent, 3)) := by decide
-- R129: a recovery that leaves the line low sets the stuck flag.
theorem test_linkStall_stuck : after (.linkStall false) (carrying .readStatus false 0) (fun s => s.link.stuck) = some true := by decide
-- R123: the round a stall struck is failed only when the line is free. R135: without the policy ACCEPT a JOIN is not acknowledged.
theorem test_linkStall_roundWaits :
    after (.linkStall false) (round .call .host 1) (fun s => (s.link.counters.roundsFailed, s.link.enumRun.map (·.rounds))) = some (0, some 1) := by decide
theorem test_recovery_failsRound :
    after (.stallRecoveryRepeat true) (round (.recovery none true) .host 1) (fun s => (s.link.counters.roundsFailed, s.link.enumRun.map (·.rounds))) =
      some (1, some 2) := by decide
theorem test_joinRequest_refused : after .joinRequest (requesting fun l => { l with accept := false }) (·.link.lastAck) = some (some false) := by decide
-- R141: TEMP_WARN turns a NORMAL channel down by 12 steps; R142: DC_FAULT latches it.
theorem test_faultRequest_warn :
    after (.faultRequest 1 1 1 80) (guarded [.fresh, .fresh])
      (fun s => (s.protModule 0).map fun m => (m.records.map fun r => (r.state, r.reduction), m.temperature)) =
      some (some ([(.warned, 12), (.normal, 0)], some 80)) := by decide
theorem test_faultRequest_dc :
    after (.faultRequest 1 4 2 0) (guarded [.fresh, .fresh]) (fun s => (s.protModule 0).map fun m => m.records.map fun r => (r.state, r.muted)) =
      some (some [(.normal, false), (.latched, true)]) := by decide
-- R149: a record that is not LATCHED is NOT_NOW. R145: the hold-off ends in NORMAL after 3 s.
theorem test_protReset_notLatched : reply .protReset (guarded [.fresh, latched]) 0x58 (resetCh 1) = some [4, 0x58] := by decide
theorem test_holdoff_normal :
    after (.holdoffExpiry 0 0) (guarded [recovering]) (fun s => (s.protModule 0).map fun m => m.records.map fun r => (r.state, r.muted, r.reduction)) =
      some (some [(.normal, false, 0)]) := by decide
theorem test_protQuery_unknown : reply .protQuery busy 0x59 [0, 0, 0, 0, 0, 9] = some [3, 0x59] := by decide
-- R154 to R163.
theorem test_tunPower_probeFails : reply (.tunPower false) (tunerIs .off) 0x60 [0] = some [5, 0x60] := by decide
theorem test_tunRegion_badValue : reply .tunRegion busy 0x61 [2] = some [3, 0x61] := by decide
theorem test_tunThreshold_clamps : reply .tunThreshold busy 0x62 [0, 121, 0, 101, 0xFF, 0xFF, 0] = some [1, 0x62, 0, 120, 0, 100, 0, 0] := by decide
theorem test_tunTune_am120 : reply .tunTune busy 0x63 [1, 0, 120] = some [3, 0x63] := by decide
theorem test_tunSeek_fault : reply .tunSeek (tunerIs .fault) 0x64 [0] = some [5, 0x64] := by decide
theorem test_tunScan_startsAtZero : after .tunScan (sent busy 0x65 [1]) (fun s => (s.tuner.state, s.tuner.channel)) = some (.scanning, 0) := by decide
theorem test_tunAbort_idle : reply .tunAbort busy 0x66 [] = some [0, 0x66] := by decide
-- R158: the reply of a tune carries band, channel, strength, multipath and stereo.
theorem test_tunerTransaction_endsTune :
    after (.tunerTransactionComplete (.acknowledged reading90)) (doing (.tune false) .tuning .read) firstReply = some [0, 0x63, 0, 0, 100, 90, 13, 1] := by decide
theorem test_settle_miss_searches :
    after .settleTimeExpiry (doing (.tune false) .tuning (.settle 10000)) (fun s => (s.tuner.step, s.now)) = some (.setAlignment none, 10010) := by decide
theorem test_monitorRead_fails : after (.monitorRead none) busy (·.tuner.state) = some .fault := by decide
-- R165, R172 to R174.
theorem test_stlistRead_count : reply .stlistRead busy 0x68 [0, 9] = some [3, 0x68] := by decide
theorem test_stmemPreset_allLocked : reply .stmemPreset (remembers waysLocked) 0x71 [0, 0, 100] = some [5, 0x71] := by decide
theorem test_stmemUnlock_none : reply .stmemUnlock busy 0x72 [0, 0, 100] = some [4, 0x72] := by decide
-- R177: a wrong check byte is counted; R178: two IDENT groups of one code make it stable.
theorem test_group_badCheck : after (.stationDataGroup [0, 0x12, 0x34, 0, 4, 5, 0]) busy (·.stationData.badGroups) = some 1 := by decide
theorem test_group_stable :
    after (.stationDataGroup [0, 0x12, 0x34, 0, 4, 5, checkByte 0 0]) (data fun x => { x with candidate := some (0x1234, 1) }) (·.stationData.stable) =
      some (some 0x1234) := by decide
-- R194: the expiry closes the group and counts what it discards.
theorem test_groupExpiry_discards :
    after .groupTimerExpiry staging (fun s => (s.control.group, (s.zone 0).staged.volume, (s.slot 1).staged.trim)) = some (none, none, none) := by decide
-- The queue: a step takes the front command; an empty queue lets a millisecond pass (log 1).
theorem test_step_takesFront :
    (match step (queued busy [.clockLost 1, .monitorRead none]) with
     | .next t => some (t.pending, (t.port 1).state)
     | _ => none) = some ([.monitorRead none], .noSignal) := by decide
end Sys2Proof.Tests
end

