-- ==== Sys2Proof/Proofs/Decoders.lean ====
section
/-! PROOFS. A stream decoder on its own: the words of a frame in assembly, the states of a decoder, the dynamic gain (R41 to R58). -/

namespace Sys2Proof.Proofs.Decoders

open Sys2Proof.Machine

/-! ## Fields of a transport word -/

theorem isSync_iff (w : TWord) : TWord.isSync w = true ↔ w = 0x2B6E51 := by
  simp [TWord.isSync, Config.syncWord]

theorem formatRight_iff (w : TWord) :
    TWord.formatRight w = true ↔
      TWord.field w 20 3 ≠ 7 ∧ 1 ≤ TWord.field w 16 4 ∧ TWord.field w 16 4 ≤ 12 ∧ TWord.field w 0 11 = 0 := by
  simp [TWord.formatRight, and_assoc]

theorem candidateRight_iff (w : TWord) :
    TWord.candidateRight w = true ↔ TWord.endMark w = false ∧ TWord.formatRight w = true := by
  simp [TWord.candidateRight]

theorem toFin?_val {k : Nat} (r : Fin k) : toFin? k r.val = some r := by
  simp [toFin?]

theorem takeFormat_of_rate (a : Assembly) (w : TWord) {r : RateCode} (hr : r.val = TWord.field w 20 3) :
    a.takeFormat w = { a with
      place := .map 0, sum := a.sum + TWord.payload w, rate := r, channels := TWord.field w 16 4, hasMetadata := w.getLsbD 15,
      sequence := TWord.field w 11 4 } := by
  simp [Assembly.takeFormat, ← hr, toFin?_val]

/-! ## Map words (R42) -/

/-- Every code of `codes`, the first of which stands at map position `pos`, is right: below `n` a role not seen before, at or beyond `n`
code 15. -/
def MapCodesRight (n : Nat) (roles codes : List Nat) (pos : Nat) : Prop :=
  ∀ j < codes.length,
    if pos + j < n then codes.getD j 0 ≤ 11 ∧ codes.getD j 0 ∉ roles ++ codes.take j else codes.getD j 0 = 15

theorem mapCodesRight_cons (n : Nat) (roles : List Nat) (c : Nat) (cs : List Nat) (pos : Nat) :
    MapCodesRight n roles (c :: cs) pos ↔
      (if pos < n then c ≤ 11 ∧ c ∉ roles else c = 15) ∧
        MapCodesRight n (if pos < n then roles ++ [c] else roles) cs (pos + 1) := by
  rw [MapCodesRight, List.length_cons, Nat.forall_lt_succ_left']
  refine and_congr (by simp) (forall₂_congr fun j _ => ?_)
  have shift : pos + (j + 1) = pos + 1 + j := by omega
  rw [shift]
  by_cases hpos : pos < n
  · simp [hpos]
  · have beyond : ¬ pos + 1 + j < n := by omega
    simp [beyond]

/-- Reading map codes succeeds exactly when they are right, and then adds those below the channel count. -/
theorem takeMapCodes_eq_some_iff (n : Nat) (codes roles : List Nat) (pos : Nat) (read : List Nat) :
    takeMapCodes n roles codes pos = some read ↔
      MapCodesRight n roles codes pos ∧ read = roles ++ codes.take (n - pos) := by
  induction codes generalizing roles pos with
  | nil => simp [takeMapCodes, MapCodesRight, eq_comm]
  | cons c cs ih =>
    rw [mapCodesRight_cons, takeMapCodes]
    by_cases hpos : pos < n
    · have count : n - pos = n - (pos + 1) + 1 := by omega
      by_cases hc : c ≤ 11 ∧ c ∉ roles <;> simp [hpos, hc, ih, count]
    · have none_left : n - pos = 0 := by omega
      have none_left' : n - (pos + 1) = 0 := by omega
      by_cases hc : c = 15 <;> simp [hpos, hc, ih, none_left, none_left']

theorem takeMapCodes_of_right {n : Nat} {roles codes : List Nat} {pos : Nat} (h : MapCodesRight n roles codes pos) :
    takeMapCodes n roles codes pos = some (roles ++ codes.take (n - pos)) :=
  (takeMapCodes_eq_some_iff ..).2 ⟨h, rfl⟩

theorem takeMapCodes_of_not_right {n : Nat} {roles codes : List Nat} {pos : Nat} (h : ¬ MapCodesRight n roles codes pos) :
    takeMapCodes n roles codes pos = none :=
  Option.eq_none_iff_forall_ne_some.2 fun _ eq => h ((takeMapCodes_eq_some_iff ..).1 eq).1

/-! ## One word of a frame in assembly: an equation for each place and outcome (R42 to R44) -/

section
variable {a : Assembly} {w : TWord}

theorem take_at_format (h : a.place = .format) :
    a.take w = if TWord.endMark w then .rejected .framing
      else if TWord.formatRight w then .more (a.takeFormat w) else .rejected .format := by
  simp only [Assembly.take, h]

theorem take_at_map_framing {k : Nat} (h : a.place = .map k) (hend : TWord.endMark w ≠ decide (k + 1 = (a.channels + 4) / 5)) :
    a.take w = .rejected .framing := by
  simp only [Assembly.take, h]
  exact if_pos (by simpa [Bool.beq_eq_decide_eq] using hend)

theorem take_at_map_wrong {k : Nat} (h : a.place = .map k) (hend : TWord.endMark w = decide (k + 1 = (a.channels + 4) / 5))
    (wrong : ¬ (TWord.field w 20 3 = 0 ∧ MapCodesRight a.channels a.roles (mapCodes w) (5 * k))) :
    a.take w = .rejected .format := by
  by_cases hzero : TWord.field w 20 3 = 0
  · have unread := takeMapCodes_of_not_right fun right => wrong ⟨hzero, right⟩
    simp [Assembly.take, h, hend, hzero, unread, Bool.beq_eq_decide_eq]
  · simp [Assembly.take, h, hend, hzero, Bool.beq_eq_decide_eq]

theorem take_at_map_right {k : Nat} (h : a.place = .map k) (hend : TWord.endMark w = decide (k + 1 = (a.channels + 4) / 5))
    (hzero : TWord.field w 20 3 = 0) (right : MapCodesRight a.channels a.roles (mapCodes w) (5 * k)) :
    a.take w = .more { a with
      sum := a.sum + TWord.payload w, roles := a.roles ++ (mapCodes w).take (a.channels - 5 * k),
      place := if TWord.endMark w = false then .map (k + 1) else if a.hasMetadata then .metadata 0 else .firstChannel } := by
  simp [Assembly.take, h, hend, hzero, takeMapCodes_of_right right, Bool.beq_eq_decide_eq]

theorem take_at_metadata {k : Nat} (h : a.place = .metadata k) :
    a.take w = if k = 15 ∧ TWord.endMark w = false then .rejected .framing
      else .more { a.takeMetadata w with
        sum := a.sum + TWord.payload w, place := if TWord.endMark w then .firstChannel else .metadata (k + 1) } := by
  simp [Assembly.take, h]

theorem take_at_channel_framing {b i : Nat} (h : a.place = .channel b i) (hend : TWord.endMark w ≠ decide (i = 255)) :
    a.take w = .rejected .framing := by
  simp only [Assembly.take, h]
  exact if_pos (by simpa [Bool.beq_eq_decide_eq, Config.spanLength] using hend)

theorem take_at_channel {b i : Nat} (h : a.place = .channel b i) (hend : TWord.endMark w = decide (i = 255)) :
    a.take w = .more (if i = 255
      then { a with sum := a.sum + TWord.payload w, samples := [],
                    blocks := ((w.extractLsb' 0 20).toInt :: a.samples).reverse :: a.blocks,
                    place := if b + 1 < a.channels then .channel (b + 1) 0 else .check }
      else { a with sum := a.sum + TWord.payload w, samples := (w.extractLsb' 0 20).toInt :: a.samples,
                    place := .channel b (i + 1) }) := by
  by_cases hi : i = 255 <;> simp [Assembly.take, h, hend, hi, Config.spanLength]

theorem take_at_check (h : a.place = .check) :
    a.take w = if TWord.endMark w = false then .rejected .framing
      else if TWord.payload w = a.sum then .verified a else .rejected .check := by
  simp [Assembly.take, h]

theorem take_framing_iff_at_format (h : a.place = .format) : a.take w = .rejected .framing ↔ TWord.endMark w = true := by
  rw [take_at_format h]
  by_cases hend : TWord.endMark w = true
  · simp [hend]
  · by_cases right : TWord.formatRight w = true <;> simp [hend, right]

theorem take_framing_iff_at_map {k : Nat} (h : a.place = .map k) :
    a.take w = .rejected .framing ↔ TWord.endMark w ≠ decide (k + 1 = (a.channels + 4) / 5) := by
  refine ⟨fun framing hend => ?_, take_at_map_framing h⟩
  by_cases right : TWord.field w 20 3 = 0 ∧ MapCodesRight a.channels a.roles (mapCodes w) (5 * k)
  · simp [take_at_map_right h hend right.1 right.2] at framing
  · simp [take_at_map_wrong h hend right] at framing

theorem take_framing_iff_at_metadata {k : Nat} (h : a.place = .metadata k) :
    a.take w = .rejected .framing ↔ k = 15 ∧ TWord.endMark w = false := by
  rw [take_at_metadata h]
  by_cases broken : k = 15 ∧ TWord.endMark w = false
  · rw [if_pos broken]
    exact iff_of_true rfl broken
  · rw [if_neg broken]
    exact iff_of_false AssemblyStep.noConfusion broken

theorem take_framing_iff_at_channel {b i : Nat} (h : a.place = .channel b i) :
    a.take w = .rejected .framing ↔ TWord.endMark w ≠ decide (i = 255) :=
  ⟨fun framing hend => by simp [take_at_channel h hend] at framing, take_at_channel_framing h⟩

theorem take_framing_iff_at_check (h : a.place = .check) : a.take w = .rejected .framing ↔ TWord.endMark w = false := by
  rw [take_at_check h]
  by_cases unmarked : TWord.endMark w = false
  · simp [unmarked]
  · by_cases sums : TWord.payload w = a.sum <;> simp [unmarked, sums]

/-- A word accepted before the check word adds its payload to the running sum (R44). -/
theorem sum_of_take_more {a' : Assembly} (more : a.take w = .more a') : a'.sum = a.sum + TWord.payload w := by
  cases h : a.place with
  | format =>
    rw [take_at_format h] at more
    split at more
    · cases more
    · split at more <;> cases more
      rfl
  | map k =>
    by_cases hend : TWord.endMark w = decide (k + 1 = (a.channels + 4) / 5)
    · by_cases right : TWord.field w 20 3 = 0 ∧ MapCodesRight a.channels a.roles (mapCodes w) (5 * k)
      · rw [take_at_map_right h hend right.1 right.2] at more
        cases more
        rfl
      · simp [take_at_map_wrong h hend right] at more
    · simp [take_at_map_framing h hend] at more
  | metadata k =>
    rw [take_at_metadata h] at more
    split at more <;> cases more
    rfl
  | channel b i =>
    by_cases hend : TWord.endMark w = decide (i = 255)
    · rw [take_at_channel h hend] at more
      cases more
      split <;> rfl
    · simp [take_at_channel_framing h hend] at more
  | check =>
    rw [take_at_check h] at more
    split at more
    · cases more
    · split at more <;> cases more

/-- The metadata block ends at its first end mark, after which channel block 0 begins (R43). -/
theorem place_of_take_more_at_metadata {k : Nat} {a' : Assembly} (h : a.place = .metadata k) (more : a.take w = .more a') :
    a'.place = if TWord.endMark w then .channel 0 0 else .metadata (k + 1) := by
  rw [take_at_metadata h] at more
  split at more <;> cases more
  rfl

/-- After the last word of a channel block the next block begins, or the check word follows (R43). -/
theorem place_of_take_more_at_block_end {b : Nat} {a' : Assembly} (h : a.place = .channel b 255) (more : a.take w = .more a') :
    a'.place = if b + 1 < a.channels then .channel (b + 1) 0 else .check := by
  by_cases hend : TWord.endMark w = decide (255 = 255)
  · rw [take_at_channel h hend, if_pos rfl] at more
    cases more
    rfl
  · simp [take_at_channel_framing h hend] at more

/-- A format word with its end mark right gives its fields, or is rejected (R42). -/
theorem take_at_format_right (h : a.place = .format) (hend : TWord.endMark w = false) (right : TWord.formatRight w = true)
    {r : RateCode} (hr : r.val = TWord.field w 20 3) :
    a.take w = .more { a with
      place := .map 0, sum := a.sum + TWord.payload w, rate := r, channels := TWord.field w 16 4, hasMetadata := w.getLsbD 15,
      sequence := TWord.field w 11 4 } := by
  rw [take_at_format h, hend, right, takeFormat_of_rate a w hr]
  rfl

theorem take_at_format_wrong (h : a.place = .format) (hend : TWord.endMark w = false) (wrong : ¬ TWord.formatRight w = true) :
    a.take w = .rejected .format := by
  rw [take_at_format h, hend, if_neg wrong]
  rfl

/-- The check word with its end mark right (R44). -/
theorem take_at_check_marked (h : a.place = .check) (hend : TWord.endMark w = true) :
    a.take w = if TWord.payload w = a.sum then .verified a else .rejected .check := by
  rw [take_at_check h, hend]
  rfl

/-- What a metadata word sets does not depend on the place and the sum, which it leaves. -/
theorem takeMetadata_with (a : Assembly) (w : TWord) (sum : BitVec 23) (place : Place) :
    ({ a with sum := sum, place := place } : Assembly).takeMetadata w = { a.takeMetadata w with sum := sum, place := place } := by
  unfold Assembly.takeMetadata
  dsimp only
  split
  case h_5 => rfl
  all_goals split <;> rfl

theorem take_at_metadata_accepted {k : Nat} (h : a.place = .metadata k) (hk : k < 15 ∨ TWord.endMark w = true) :
    a.take w = .more (({ a with
      sum := a.sum + TWord.payload w,
      place := if TWord.endMark w then .firstChannel else .metadata (k + 1) } : Assembly).takeMetadata w) := by
  have in_block : ¬ (k = 15 ∧ TWord.endMark w = false) := by
    rintro ⟨rfl, unmarked⟩
    simp [unmarked] at hk
  rw [take_at_metadata h, if_neg in_block]
  exact congrArg _ (takeMetadata_with ..).symm

end

/-! ## O33 -/

/-- Settles O33: each clause is what `Assembly.take` does at one place. -/
theorem frameWordsChecked : Obligations.FrameWordsChecked := by
  refine ⟨fun a w => ⟨?_, fun _ _ => place_of_take_more_at_metadata, fun _ _ => place_of_take_more_at_block_end⟩,
    fun a w => ⟨take_at_check_marked, fun _ => sum_of_take_more⟩, fun a w => ⟨fun h hend => ⟨?_, fun r right hr => ?_⟩,
    fun k h hend => ⟨fun wrong => ?_, fun right => ?_⟩, fun k h hk => ?_, fun b i => take_at_channel⟩⟩
  · cases h : a.place with
    | format => exact take_framing_iff_at_format h
    | map k => exact take_framing_iff_at_map h
    | metadata k => exact take_framing_iff_at_metadata h
    | channel b i => exact take_framing_iff_at_channel h
    | check => exact take_framing_iff_at_check h
  · exact fun wrong => take_at_format_wrong h hend fun right => wrong ((formatRight_iff w).1 right)
  · exact take_at_format_right h hend ((formatRight_iff w).2 right) hr
  · exact take_at_map_wrong h hend fun ⟨hzero, codes⟩ => wrong ⟨hzero, fun j => codes j j.isLt⟩
  · exact take_at_map_right h hend right.1 fun j hj => right.2 ⟨j, hj⟩
  · exact take_at_metadata_accepted h hk

/-! ## Dynamic gain (R46, R48) -/

/-- The exit gain is that of the last point, else the entry gain (R48). -/
theorem exitGainOf_eq_getLast? (entry : Int) (points : List GainPoint) :
    exitGainOf entry points = (points.getLast?.map (·.gain)).getD entry := by
  induction points generalizing entry with
  | nil => rfl
  | cons q points ih =>
    have from_q : exitGainOf entry (q :: points) = exitGainOf q.gain points := rfl
    rw [from_q, ih, List.getLast?_cons]
    cases points.getLast? <;> rfl

/-- Points behind a position do not change the gain there (R48). -/
theorem gainAt_of_all_later {entry : Int} {points : List GainPoint} {p : Nat} (later : ∀ q ∈ points, p < q.position) :
    gainAt entry points p = entry := by
  induction points with
  | nil => rfl
  | cons q points ih =>
    obtain ⟨hq, hrest⟩ := List.forall_mem_cons.1 later
    have skipped : gainAt entry (q :: points) p = gainAt entry points p := by
      simp [gainAt, Nat.not_le.2 hq]
    rw [skipped, ih hrest]

/-- The gain at a position is that of the last point at or before it (R48). -/
theorem gainAt_of_last_reached {entry : Int} {before after : List GainPoint} {q : GainPoint} {p : Nat} (reached : q.position ≤ p)
    (later : ∀ y ∈ after, p < y.position) : gainAt entry (before ++ q :: after) p = q.gain := by
  have from_q : gainAt entry (before ++ q :: after) p = gainAt q.gain after p := by
    simp [gainAt, reached]
  rw [from_q, gainAt_of_all_later later]

theorem strictlyRising_iff_pairwise (points : List GainPoint) :
    strictlyRising points = true ↔ points.Pairwise fun p q => p.position < q.position := by
  induction points with
  | nil => simp [strictlyRising]
  | cons p rest ih =>
    cases rest with
    | nil => simp [strictlyRising]
    | cons q rest =>
      have first_step : strictlyRising (p :: q :: rest) = true ↔ p.position < q.position ∧ strictlyRising (q :: rest) = true := by
        simp [strictlyRising]
      rw [first_step, ih, List.pairwise_cons (a := p)]
      refine and_congr_left fun rising => ⟨fun hpq y hy => ?_, fun below => below q List.mem_cons_self⟩
      rcases List.mem_cons.1 hy with rfl | later
      · exact hpq
      · exact Nat.lt_trans hpq ((List.pairwise_cons.1 rising).1 y later)

theorem keptPoints_eq (a : Assembly) :
    a.keptPoints = if a.points.Pairwise fun p q => p.position < q.position then a.points else [] := by
  simp only [Assembly.keptPoints, strictlyRising_iff_pairwise]

theorem ignoredWords_eq (a : Assembly) :
    a.ignoredWords = a.ignored + if a.points.Pairwise fun p q => p.position < q.position then 0 else a.points.length := by
  simp only [Assembly.ignoredWords, strictlyRising_iff_pairwise]

/-! ## O35 -/

/-- The program gain with dynamic gain ON, while a frame plays and in a span of zeros (R49, R54). -/
theorem programGain_of_metadata {d : Decoder} {m : Metadata} (h : d.metadata = some m) (dynamic : Bool) (p : Nat) :
    d.programGain dynamic p =
      m.level + if dynamic then d.playing.elim m.endGain fun g => gainAt g.entryGain g.points p else 0 := by
  cases playing : d.playing <;> simp [Decoder.programGain, h, playing]

theorem samplesAt_of_playing {d : Decoder} {g : Frame} (h : d.playing = some g) (p : Nat) :
    d.samplesAt p = g.samples.map fun block => block.getD p 0 := by
  simp [Decoder.samplesAt, h]

theorem samplesAt_of_silent {d : Decoder} (h : d.playing = none) (p : Nat) : d.samplesAt p = [] := by
  simp [Decoder.samplesAt, h]

/-- Settles O35, from the gain at a position, the points kept and what a decoder supplies. -/
theorem dynamicGainOfFrame : Obligations.DynamicGainOfFrame := by
  intro a chain
  refine ⟨rfl, exitGainOf_eq_getLast? _ _, fun p => ⟨gainAt_of_all_later, fun before after q points reached later => ?_, keptPoints_eq a,
    rfl, rfl, rfl, rfl, fun d dynamic => ⟨fun h => ?_, fun m h => ?_, fun g h => samplesAt_of_playing h p, fun h i => ?_⟩⟩⟩
  · rw [points, gainAt_of_last_reached reached later]
  · simp [Decoder.programGain, h]
  · refine ⟨?_, fun g playing => ?_, fun silent => ?_⟩
    · simp [programGain_of_metadata h]
    · simp [programGain_of_metadata h, playing]
    · simp [programGain_of_metadata h, silent]
  · simp [samplesAt_of_silent h]

/-! ## A rejected frame (R50, R52, R56) -/

section
variable {d : Decoder}

theorem reject_in_search (h : d.state = .search) (cause : RejectCause) :
    d.reject cause = { d with
      lastCause := cause, mode := .scan, counters := { d.counters with rejected := count16 d.counters.rejected } } := by
  simp [Decoder.reject, h]

/-- Up to three rejections in a row are borne in HOLD, with everything kept (R56). -/
theorem reject_borne (h : d.state = .locked ∨ d.state = .hold) (few : d.bad < 3) (cause : RejectCause) :
    d.reject cause = { d with
      state := .hold, bad := d.bad + 1, lastCause := cause, mode := .scan,
      counters := { d.counters with rejected := count16 d.counters.rejected } } := by
  have borne : ¬ 3 ≤ d.bad := Nat.not_le.2 few
  rcases h with h | h <;> simp [Decoder.reject, h, borne]

/-- The fourth rejection in a row takes the decoder to SEARCH with one more sync loss (R56). -/
theorem reject_fourth (h : d.state = .locked ∨ d.state = .hold) (many : 3 ≤ d.bad) (cause : RejectCause) :
    d.reject cause =
      { d with lastCause := cause, counters := { d.counters with rejected := count16 d.counters.rejected } }.toSearch true := by
  rcases h with h | h <;> simp [Decoder.reject, Decoder.toSearch, h, many]

/-! ## A verified frame (R44, R45, R52 to R55) -/

/-- The frame before the one that is verified, in its chain: SEARCH begins a new chain (R52). -/
def chainBefore (d : Decoder) : Option Carry := if d.state = .search then none else d.chain

/-- A verified frame counted, the next word the expected one: what happens in every state (R45, R46). -/
def counted (d : Decoder) (a : Assembly) : Decoder :=
  let f := a.frame (chainBefore d)
  { d with
    mode := .expect, chain := some f.carry
    counters := { d.counters with
      good := count16 d.counters.good, ignored := add16 d.counters.ignored a.ignoredWords
      jumps := if (chainBefore d).any fun k => f.sequence != (k.sequence + 1) % 16 then count16 d.counters.jumps else d.counters.jumps } }

theorem verify_in_search (h : d.state = .search) (a : Assembly) :
    d.verify a = { counted d a with state := .confirm, confirm := some (a.frame (chainBefore d)) } := by
  simp [Decoder.verify, counted, chainBefore, h]

theorem verify_same_rate {head : Header} (h : d.state = .locked ∨ d.state = .hold) (hh : d.header = some head) (a : Assembly)
    (same : head.rate = a.rate) :
    d.verify a = { counted d a with
      state := .locked, bad := 0, ready := some (a.frame (chainBefore d))
      counters := { (counted d a).counters with
        slips := if d.ready.isSome then count16 d.counters.slips else d.counters.slips } } := by
  rcases h with h | h <;> cases ready : d.ready <;>
    simp [Decoder.verify, counted, chainBefore, h, hh, same, Assembly.frame, ready]

theorem verify_other_rate {head : Header} (h : d.state = .locked ∨ d.state = .hold) (hh : d.header = some head) (a : Assembly)
    (other : head.rate ≠ a.rate) :
    d.verify a = { counted d a with
      state := .confirm, confirm := some (a.frame (chainBefore d)), ready := none, playing := none, clock := false, playPos := 0,
      header := none, metadata := none, bad := 0 } := by
  rcases h with h | h <;> simp [Decoder.verify, counted, chainBefore, h, hh, other, Assembly.frame]

/-- A jump is counted only where a chain goes on (R45). -/
theorem chainBefore_any (d : Decoder) (jump : Carry → Bool) :
    (chainBefore d).any jump = true ↔ d.state ≠ .search ∧ d.chain.any jump = true := by
  by_cases h : d.state = .search <;> simp [chainBefore, h]

/-! ## A word taken (R41, R51 to R54) -/

variable {w : TWord}

theorem take_idle (h : d.state = .idle) : d.take w = d := by
  simp [Decoder.take, h]

theorem take_scan (h : d.state ≠ .idle) (hm : d.mode = .scan) :
    d.take w = if w = 0x2B6E51 then { d with mode := .candidate } else d := by
  simp [Decoder.take, h, hm, isSync_iff]

theorem take_candidate (h : d.state ≠ .idle) (hm : d.mode = .candidate) :
    d.take w = if TWord.candidateRight w then { d with mode := .assemble (Assembly.begin.takeFormat w) }
      else if w = 0x2B6E51 then d else { d with mode := .scan } := by
  simp [Decoder.take, h, hm, isSync_iff]

theorem take_expect (h : d.state ≠ .idle) (hm : d.mode = .expect) : d.take w = d.takeExpected w := by
  simp [Decoder.take, h, hm]

theorem takeExpected_in_confirm_sync (h : d.state = .confirm) (hw : w = 0x2B6E51) :
    d.takeExpected w = { d.lock with mode := .assemble .begin } := by
  simp [Decoder.takeExpected, (isSync_iff w).2 hw, h]

theorem takeExpected_in_confirm_other (h : d.state = .confirm) (hw : w ≠ 0x2B6E51) :
    d.takeExpected w = { d with state := .search, mode := .scan, confirm := none, chain := none } := by
  simp [Decoder.takeExpected, mt (isSync_iff w).1 hw, h]

theorem takeExpected_of_ne_confirm (h : d.state ≠ .confirm) :
    d.takeExpected w = if w = 0x2B6E51 then { d with mode := .assemble .begin } else d.reject .framing := by
  simp [Decoder.takeExpected, isSync_iff, h]

end

/-! ## O34 -/

/-- Settles O34, from the rules above for a word taken, a frame verified and a frame rejected. -/
theorem decoderStateChanges : Obligations.DecoderStateChanges := by
  intro d w cause a h
  refine ⟨fun f hs hm hf => ?_, ?_, fun hs => reject_in_search hs cause, take_idle,
    fun hs => ⟨take_scan hs, fun hm => ⟨?_, ?_⟩, ?_, fun hm => ?_⟩,
    fun hs => ⟨fun few => reject_borne hs few cause, fun many => reject_fourth hs many cause⟩⟩
  · have active : d.state ≠ .idle := by simp [hs]
    rw [take_expect active hm]
    refine ⟨fun hw => ?_, takeExpected_in_confirm_other hs⟩
    simp [takeExpected_in_confirm_sync hs hw, Decoder.lock, hf]
  · intro rising f jumped counters taken
    have counters_eq : counters = (counted d a).counters := by
      simp only [counters, counted, add16, ignoredWords_eq, chainBefore_any]
      rfl
    have taken_eq : taken = counted d a := by
      simp only [taken, counters_eq]
      rfl
    rw [taken_eq, counters_eq]
    exact ⟨fun hs => verify_in_search hs a, fun hs hh => ⟨verify_same_rate hs hh a, verify_other_rate hs hh a⟩⟩
  · rintro r ⟨hend, right⟩ hr
    rw [take_candidate hs hm, if_pos ((candidateRight_iff w).2 ⟨hend, (formatRight_iff w).2 right⟩), takeFormat_of_rate _ w hr]
    rfl
  · intro wrong
    rw [take_candidate hs hm, if_neg]
    rw [candidateRight_iff, formatRight_iff]
    exact wrong
  · intro hm hc
    rw [take_expect hs hm, takeExpected_of_ne_confirm hc]
  · cases step : a.take w <;> simp [Decoder.take, hs, hm, step]

end Sys2Proof.Proofs.Decoders
end

