-- ==== Sys2Proof/Proofs/CommandForm.lean ====
section
/-! PROOFS. The form of a host command: its flags, the length its kind requires, and what the row of its kind does with one of wrong form
(R98, R186, R187). -/

namespace Sys2Proof.Proofs.CommandForm

open Sys2Proof.Machine Sys2Proof.Safety

/-! ## Flags (R187) -/

theorem flags_mask_eq_zero_iff (flags : Byte) :
    flags &&& 0xFE = 0 ↔ ∀ j, 1 ≤ j → j ≤ 7 → flags.getLsbD j = false := by
  have mask_bit : ∀ j < 8, (0xFE : Byte).getLsbD j = decide (1 ≤ j) := by decide
  constructor
  · intro masked j low high
    have bit : (flags &&& 0xFE).getLsbD j = false := by rw [masked]; exact BitVec.getLsbD_zero
    rwa [BitVec.getLsbD_and, mask_bit j (by omega), decide_eq_true low, Bool.and_true] at bit
  · intro clear
    refine BitVec.eq_of_getLsbD_eq fun j hj => ?_
    rw [BitVec.getLsbD_and, mask_bit j hj]
    by_cases low : 1 ≤ j
    · simp [clear j low (by omega)]
    · simp [low]

/-! ## The kinds and their lengths (R186) -/

theorem kindLength_of_mem_fieldWidths : ∀ p ∈ fieldWidths, kindLength p.1.toNat = some (some p.2.sum) := by decide

/-- A kind is no command kind, that of MATRIX.LOAD, or one with fixed fields: all 256 bytes are looked at. -/
theorem kind_cases : ∀ kind : Byte, kindLength kind.toNat = none ∨ kind = 0x3A ∨ ∃ p ∈ fieldWidths, p.1 = kind := by decide

theorem exists_hostRow_of_mem_fieldWidths : ∀ p ∈ fieldWidths, ∃ row ∈ hostRows, p.1 = row.2.1 := by decide

theorem exists_hostRow_matrixLoad : ∃ row ∈ hostRows, (0x3A : Byte) = row.2.1 := by decide

/-- A kind that no row executes is no command kind. -/
theorem kindLength_of_no_hostRow {kind : Byte} (none_has : ∀ row ∈ hostRows, kind ≠ row.2.1) : kindLength kind.toNat = none := by
  rcases kind_cases kind with unknown | rfl | ⟨p, hp, rfl⟩
  · exact unknown
  · obtain ⟨row, hrow, same⟩ := exists_hostRow_matrixLoad
    exact absurd same (none_has row hrow)
  · obtain ⟨row, hrow, same⟩ := exists_hostRow_of_mem_fieldWidths p hp
    exact absurd same (none_has row hrow)

/-! ## The payload of MATRIX.LOAD (R98) -/

/-- A payload laid out as MATRIX.LOAD's: zone, option, count, that many roles, row count, and so many rows of a role and two bytes for
each coefficient. -/
def MatrixLoadForm (payload : List Byte) : Prop :=
  ∃ (zone option n rowCount : Byte) (map rows : List Byte), payload = zone :: option :: n :: (map ++ rowCount :: rows) ∧
    map.length = n.toNat ∧ rows.length = rowCount.toNat * (1 + 2 * n.toNat)

theorem matrixLoadLength_fields (zone option n rowCount : Byte) {map : List Byte} (rows : List Byte) (hmap : map.length = n.toNat) :
    matrixLoadLength (zone :: option :: n :: (map ++ rowCount :: rows)) = 4 + n.toNat + rowCount.toNat * (1 + 2 * n.toNat) := by
  have count : uField (zone :: option :: n :: (map ++ rowCount :: rows)) 2 1 = n.toNat := uField_one n [zone, option] _
  have row_count : uField (zone :: option :: n :: (map ++ rowCount :: rows)) (3 + n.toNat) 1 = rowCount.toNat := by
    rw [← hmap, Nat.add_comm]
    exact uField_one rowCount (zone :: option :: n :: map) rows
  simp [matrixLoadLength, count, row_count]

/-- A payload long enough for the count it names has a map of that many roles and a row count. -/
theorem exists_matrixLoad_fields {payload : List Byte} (long : 4 + uField payload 2 1 ≤ payload.length) :
    ∃ (zone option n rowCount : Byte) (map rows : List Byte),
      payload = zone :: option :: n :: (map ++ rowCount :: rows) ∧ map.length = n.toNat := by
  obtain _ | ⟨zone, _ | ⟨option, _ | ⟨n, rest⟩⟩⟩ := payload
  case cons.cons.cons =>
    have count : uField (zone :: option :: n :: rest) 2 1 = n.toNat := uField_one n [zone, option] rest
    have room : n.toNat < rest.length := by
      simp only [count, List.length_cons] at long
      omega
    refine ⟨zone, option, n, rest[n.toNat], rest.take n.toNat, rest.drop (n.toNat + 1), ?_, List.length_take_of_le (Nat.le_of_lt room)⟩
    rw [← List.drop_eq_getElem_cons room, List.take_append_drop]
  all_goals
    simp only [List.length_cons, List.length_nil] at long
    omega

theorem length_eq_matrixLoadLength_iff (payload : List Byte) :
    payload.length = matrixLoadLength payload ↔ MatrixLoadForm payload := by
  constructor
  · intro right
    have long : 4 + uField payload 2 1 ≤ payload.length := by
      rw [right]
      exact Nat.le_add_right _ _
    obtain ⟨zone, option, n, rowCount, map, rows, rfl, hmap⟩ := exists_matrixLoad_fields long
    refine ⟨zone, option, n, rowCount, map, rows, rfl, hmap, ?_⟩
    rw [matrixLoadLength_fields zone option n rowCount rows hmap] at right
    simp only [List.length_cons, List.length_append] at right
    omega
  · rintro ⟨zone, option, n, rowCount, map, rows, rfl, hmap, hrows⟩
    rw [matrixLoadLength_fields zone option n rowCount rows hmap]
    simp only [List.length_cons, List.length_append]
    omega

/-! ## The form check (R187) -/

theorem lengthRight_iff (c : Command) :
    c.lengthRight = true ↔
      (∃ widths, (c.kind, widths) ∈ fieldWidths ∧ c.payload.length = widths.sum) ∨ (c.kind = 0x3A ∧ MatrixLoadForm c.payload) := by
  have fixed {widths : List Nat} (h : (c.kind, widths) ∈ fieldWidths) :
      kindLength c.kind.toNat = some (some widths.sum) := kindLength_of_mem_fieldWidths _ h
  have load (h : c.kind = 0x3A) : kindLength c.kind.toNat = some none := by rw [h]; rfl
  rw [← length_eq_matrixLoadLength_iff]
  constructor
  · intro right
    rcases kind_cases c.kind with unknown | h | ⟨p, hp, h⟩
    · simp [Command.lengthRight, unknown] at right
    · exact .inr ⟨h, by simpa [Command.lengthRight, load h] using right⟩
    · have mem : (c.kind, p.2) ∈ fieldWidths := h ▸ hp
      exact .inl ⟨p.2, mem, by simpa [Command.lengthRight, fixed mem] using right⟩
  · rintro (⟨widths, mem, length⟩ | ⟨h, length⟩)
    · simp [Command.lengthRight, fixed mem, length]
    · simpa [Command.lengthRight, load h] using length

theorem formRight_iff (c : Command) :
    c.formRight = true ↔ (∀ j, 1 ≤ j → j ≤ 7 → c.flags.getLsbD j = false) ∧
      ((∃ widths, (c.kind, widths) ∈ fieldWidths ∧ c.payload.length = widths.sum) ∨ (c.kind = 0x3A ∧ MatrixLoadForm c.payload)) := by
  rw [← lengthRight_iff, ← flags_mask_eq_zero_iff]
  simp [Command.formRight, and_comm]

/-! ## The rows of the host commands -/

/-- Every row of a host command executes the command of its kind and then ends the event, on some rows with the link taking what waits. -/
theorem exec_hostRow : ∀ row ∈ hostRows, ∃ body : State → Command → State, ∀ s,
    exec row.1 s = .next (if row.2.2 then (s.execute row.2.1.toNat body).settleLink else (s.execute row.2.1.toNat body).settle) := by
  simp only [hostRows, List.forall_mem_cons, List.not_mem_nil, false_implies, implies_true, and_true]
  and_intros
  all_goals exact ⟨_, fun _ => rfl⟩

theorem exec_hostRow_badFormat {row : Instr × Byte × Bool} (hrow : row ∈ hostRows) {s : State} {c : Command}
    (head : s.control.commands.head? = some c) (kind : c.kind = row.2.1) (wrong : c.formRight = false) :
    exec row.1 s = .next (if row.2.2 then (answered s c .badFormat []).settleLink else (answered s c .badFormat []).settle) := by
  obtain ⟨body, runs⟩ := exec_hostRow row hrow
  rw [runs, execute_badFormat body head (congrArg BitVec.toNat kind) wrong]

theorem exec_unknownCommandKind {s : State} {c : Command} (head : s.control.commands.head? = some c)
    (unknown : kindLength c.kind.toNat = none) : exec .unknownCommandKind s = .next (answered s c .badFormat []) := by
  obtain ⟨rest, queue⟩ : ∃ rest, s.control.commands = c :: rest := List.head?_eq_some_iff.1 head
  have popped_eq : s.setControl { s.control with commands := rest } = popped s := by simp [popped, State.setControl, queue]
  have unfolded : exec .unknownCommandKind s = execUnknownCommandKind s := rfl
  simp [unfolded, execUnknownCommandKind, queue, unknown, popped_eq]

/-! ## An event that leaves nothing to do -/

/-- A link with nothing to start stays as it is (R127). -/
theorem kickLink_of_rested {s : State} (rested : LinkRested s.link) : s.kickLink = s := by
  obtain ⟨no_enum, no_join, no_urgent, no_ordinary⟩ := rested
  unfold State.kickLink
  split
  next idle =>
    have arbitrated : s.arbitrate = s.setExchange .idle := by
      simp [State.arbitrate, no_enum, no_join, no_urgent, no_ordinary]
    rw [arbitrated, ← idle]
    rfl
  next => rfl

theorem settleLink_of_rested {s : State} (calm : Calm s) (rested : LinkRested s.link) : s.settleLink = s := by
  rw [State.settleLink, kickLink_of_rested rested, settle_of_calm calm]

/-! ## O10 -/

/-- Settles O10: the form check field by field, and that a host row reaches its block only with a command that passes it. -/
theorem badFormChangesNothing : Obligations.BadFormChangesNothing := by
  refine ⟨formRight_iff, fun row hrow s c head kind wrong => ⟨exec_hostRow_badFormat hrow head kind wrong, fun calm rested => ?_⟩,
    fun s c head none_has => exec_unknownCommandKind head (kindLength_of_no_hostRow none_has)⟩
  rw [exec_hostRow_badFormat hrow head kind wrong]
  split
  next links => rw [settleLink_of_rested (calm_answered.2 calm) (rested links)]
  next => rw [settle_of_calm (calm_answered.2 calm)]

end Sys2Proof.Proofs.CommandForm
end
